-- ==== Sys2Proof/Word.lean ====
section
/-!
DEFINITION. The word types of the block: the register word, the byte of the Extended CSD space, the 17-bit command word, the
four register words presented together, and an output port with its width.
-/

namespace Sys2Proof

/-- A register word: 32 bits (00_scope.md R5 `WORD`, 10_state.md R21). -/
abbrev Word := BitVec 32

/-- A byte of the Extended CSD space (10_state.md R22). -/
abbrev Byte := BitVec 8

/-- The command word `cmd`: 17 bits (10_state.md R23). -/
abbrev Command := BitVec 17

/-- The four input ports `W[0]` to `W[3]` (10_state.md R21). -/
structure Words where
  w0 : Word
  w1 : Word
  w2 : Word
  w3 : Word
deriving DecidableEq, Repr

/-- A driven output port: how many bits wide it is, and its value. The width stands beside the value because the width of a
record port is the width of its slice in the layout table (10_state.md R25) and that of a capacity is `CAP_WIDTH`
(00_scope.md R5), both parameters of the hardware. -/
structure Port where
  width : Nat
  value : BitVec width
deriving DecidableEq, Repr

end Sys2Proof
end

