-- ==== Sys2Proof/Syntax.lean ====
section
/-!
DEFINITION. The eight operations of the block (30_encoding.md R64), and the names of the ports and table rows the decoders
speak of (30_encoding.md R68 to R72).
-/

namespace Sys2Proof

/-- One constructor per row of the opcode table. Only `SLICE` has operands in the command word: `endBit` then `startBit`, as
everywhere in the spec (00_scope.md R8). They are bit indices; that they fit the 7 bits of their fields is
`Instr.wellFormed`. -/
inductive Instr where
  | slice (endBit startBit : Nat)
  | cidsd
  | cidmmc
  | csdmmc
  | csdsd10
  | csdsd20
  | capcsd
  | capext
deriving DecidableEq, Repr

/-- The output ports of the two CID records (41_cid.md R110, R111). `pnm i` is element `i` of the port array `pnm`. -/
inductive CidPort where
  | mid
  | oid
  | pnm (i : Nat)
  | prvN
  | prvM
  | psn
  | mdtY
  | mdtM
  | crc
deriving DecidableEq, Repr

/-- The row names of the two CID layouts. `port p` is a row that goes to the port of its own name; `pnm k` and `mdtY` are the
parenthesised rows `PNM<k>` and `MDT_Y`, which do not (30_encoding.md R68). -/
inductive CidRowName where
  | port (p : CidPort)
  | pnm (k : Nat)
  | mdtY
deriving DecidableEq, Repr

/-- The output ports of the three CSD records, which are also the row names of the three CSD layouts
(30_encoding.md R70, R71, R72). -/
inductive CsdPort where
  | csdStructure
  | specVers
  | taac
  | nsac
  | tranSpeed
  | ccc
  | readBlLen
  | readBlPartial
  | writeBlkMisalign
  | readBlkMisalign
  | dsrImp
  | cSize
  | vddRCurrMin
  | vddRCurrMax
  | vddWCurrMin
  | vddWCurrMax
  | cSizeMult
  | eraseBlkEn
  | eraseSectorSize
  | eraseGrpSize
  | eraseGrpMult
  | wpGrpSize
  | wpGrpEnable
  | defaultEcc
  | r2wFactor
  | writeBlLen
  | writeBlPartial
  | contentProtApp
  | fileFormatGrp
  | copy
  | permWriteProtect
  | tmpWriteProtect
  | fileFormat
  | ecc
  | crc
deriving DecidableEq, Repr

/-- The pseudo-instruction `FIELD <layout>.<row>` (30_encoding.md R77): one constructor per layout, with a row name of that
layout. -/
inductive FieldRef where
  | cidSd (row : CidRowName)
  | cidMmc (row : CidRowName)
  | csdMmc (row : CsdPort)
  | csdSd10 (row : CsdPort)
  | csdSd20 (row : CsdPort)
deriving DecidableEq, Repr

end Sys2Proof
end

