-- ==== Sys2Proof/Config.lean ====
section
/-!
DEFINITION. The parameters of the block (00_scope.md R5) and the values the spec leaves free. The field tables this hardware
has, and the parameters' defaults, are in Machine/Tables.lean.
-/

namespace Sys2Proof

/-- A FieldSlice `end:start`. It cannot be built outside the invariant of 30_encoding.md R62, `end >= start` and
`end - start < 32`, nor outside the 128-bit register. -/
structure FieldSlice where
  endBit : Nat
  startBit : Nat
  legal : startBit ≤ endBit ∧ endBit - startBit < 32 ∧ endBit < 128 := by decide
deriving DecidableEq, Repr

/-- The width of the slice (30_encoding.md part 3: `width = end - start + 1`). -/
def FieldSlice.width (f : FieldSlice) : Nat := f.endBit - f.startBit + 1

/-- A row of a CID layout. -/
structure CidRow where
  name : CidRowName
  slice : FieldSlice
deriving DecidableEq, Repr

/-- A row of a CSD layout. -/
structure CsdRow where
  port : CsdPort
  slice : FieldSlice
deriving DecidableEq, Repr

/-- The slices `CAPCSD` reads (30_encoding.md R73). -/
structure CapSlices where
  csdStructure : FieldSlice
  cSizeV0 : FieldSlice
  cSizeMult : FieldSlice
  readBlLen : FieldSlice
  cSizeV1 : FieldSlice
deriving DecidableEq, Repr

/-- The parameter `TABLES` (00_scope.md R5, 10_state.md R28): five layouts, and the slices of the capacity calculator. -/
structure Tables where
  cidSd : List CidRow
  cidMmc : List CidRow
  csdMmc : List CsdRow
  csdSd10 : List CsdRow
  csdSd20 : List CsdRow
  capacity : CapSlices
deriving DecidableEq, Repr

/-- The two values of the parameter `RBL_LT9` (43_capacity.md R154). -/
inductive RblLt9 where
  | zero
  | any
deriving DecidableEq, Repr

/-- The parameters a model takes as arguments (00_scope.md R5). `Sys2Proof.Machine.config` holds their defaults, and is what
the machine's step uses. -/
structure Config where
  capWidth : Nat
  strict : Bool
  rblLt9 : RblLt9
  tables : Tables
deriving DecidableEq, Repr

/-- FREE VALUE (log 9): what a `SLICE` that violates its precondition puts on `R` when `STRICT = false` (40_slice.md R94, U1).
Nothing is known of it but that it is a function of the operands and the words presented (20_memory.md R48). -/
opaque Config.uncheckedSlice (endBit startBit : Nat) (w : Words) : Word

/-- FREE VALUE (log 10): what `CAPCSD` gives for `read_bl_len < 9` when `RBL_LT9 = any` (43_capacity.md R154, U2). Nothing is
known of it but that it is a function of the words presented. -/
opaque Config.shortBlockCapacity (w : Words) : Word

/-- FREE VALUE (log 21): what a CID decoder puts on the 16-bit port `mdt_y` when a non-default `TABLES` makes the raw year plus the
epoch 2^16 or more; the spec's `zext_16` asks for less (00_scope.md R9, 41_cid.md R112). Nothing is known of it but that it is a
function of the epoch, the year's slice and the words presented. -/
opaque Config.overlongYear (epoch : Nat) (year : FieldSlice) (ws : List Word) : BitVec 16

end Sys2Proof
end

