-- ==== Sys2Proof/WellFormed.lean ====
section
/-!
DEFINITION. What it is for an instruction and for a layout table to be well formed. (The canonical form of the Extended CSD
memory is `Memory.wf`, in Machine/Ops.lean.)
-/

namespace Sys2Proof

/-- The operands fit the fields of the command word: a bit index is 7 bits wide (00_scope.md R5 `IDXW`, 30_encoding.md R63). -/
def Instr.wellFormed : Instr → Bool
  | .slice endBit startBit => decide (endBit < 128) && decide (startBit < 128)
  | .cidsd => true
  | .cidmmc => true
  | .csdmmc => true
  | .csdsd10 => true
  | .csdsd20 => true
  | .capcsd => true
  | .capext => true

/-- Two slices share no bit of the register. -/
def FieldSlice.disjoint (f g : FieldSlice) : Bool :=
  decide (f.endBit < g.startBit) || decide (g.endBit < f.startBit)

/-- No two slices of a list overlap (30_encoding.md R75 b). -/
def slicesDisjoint : List FieldSlice → Bool
  | [] => true
  | f :: fs => fs.all f.disjoint && slicesDisjoint fs

/-- A row of a CID layout is one the spec speaks of: `PNM<k>` with `k` below the length of the name and a slice of 8 bits
(41_cid.md R113), `MDT_Y`, or a row that goes to a plain port (30_encoding.md R68, R69). -/
def CidRow.wellFormed (pnmLen : Nat) (r : CidRow) : Bool :=
  match r.name with
  | .pnm k => decide (k < pnmLen) && decide (r.slice.width = 8)
  | .mdtY => true
  | .port (.pnm _) | .port .mdtY => false
  | .port .mid | .port .oid | .port .prvN | .port .prvM | .port .psn | .port .mdtM | .port .crc => true

/-- A CID layout is well formed: every row is, no two rows overlap and no name stands twice. -/
def cidLayoutWellFormed (pnmLen : Nat) (t : List CidRow) : Bool :=
  t.all (CidRow.wellFormed pnmLen) && slicesDisjoint (t.map CidRow.slice) && decide (t.map CidRow.name).Nodup

/-- A CSD layout is well formed: no two rows overlap and no name stands twice. -/
def csdLayoutWellFormed (t : List CsdRow) : Bool :=
  slicesDisjoint (t.map CsdRow.slice) && decide (t.map CsdRow.port).Nodup

/-- All five layouts of `TABLES` are well formed, for product names of the two lengths given. -/
def Tables.wellFormed (lenSd lenMmc : Nat) (t : Tables) : Bool :=
  cidLayoutWellFormed lenSd t.cidSd && cidLayoutWellFormed lenMmc t.cidMmc && csdLayoutWellFormed t.csdMmc
    && csdLayoutWellFormed t.csdSd10 && csdLayoutWellFormed t.csdSd20

end Sys2Proof
end

