-- ==== Sys2Proof/Decode.lean ====
section
/-!
DEFINITION. The command word, decoded and encoded (30_encoding.md part 1).
-/

namespace Sys2Proof

/-- The field `op`, bits 16:14 (30_encoding.md R60). -/
def opField (c : Command) : BitVec 3 := c.extractLsb' 14 3

/-- The field `end`, bits 13:7, an unsigned number (30_encoding.md R63). -/
def endField (c : Command) : Nat := (c.extractLsb' 7 7).toNat

/-- The field `start`, bits 6:0, an unsigned number (30_encoding.md R63). -/
def startField (c : Command) : Nat := (c.extractLsb' 0 7).toNat

/-- Decoding is total: `op` alone selects one of the eight operations (30_encoding.md R61, R64). For `op` 1 to 7 the other 14
bits are ignored (R65 b). The match is on bits 16, 15 and 14 in that order. -/
def decodeCmd (c : Command) : Instr :=
  match c.getLsbD 16, c.getLsbD 15, c.getLsbD 14 with
  | false, false, false => .slice (endField c) (startField c)
  | false, false, true  => .cidsd
  | false, true,  false => .cidmmc
  | false, true,  true  => .csdmmc
  | true,  false, false => .csdsd10
  | true,  false, true  => .csdsd20
  | true,  true,  false => .capcsd
  | true,  true,  true  => .capext

/-- Why a string of bits is not a command word. -/
inductive DecodeRefusal where
  /-- A bit above bit 16 is set: the number does not fit the 17-bit port `cmd` (log 15). -/
  | widerThanCommand
deriving DecidableEq, Repr

/-- The decoder on any number of bits: a number below `2^17` is a command word, any other is refused by name. -/
def decodeBits (bits : Nat) : Except DecodeRefusal Instr :=
  if bits < 2 ^ 17 then .ok (decodeCmd (BitVec.ofNat 17 bits)) else .error .widerThanCommand

/-- The decoder on bytes: three bytes, the least significant first, a command word in the low 17 bits. The byte form, its length and
its order, is the MODEL's choice (DESIGN CHOICE, log 20): the spec gives `cmd` as a 17-bit port only (10_state.md R23). -/
def decodeBytes (b0 b1 b2 : Byte) : Except DecodeRefusal Instr :=
  decodeBits (b0.toNat + 2 ^ 8 * b1.toNat + 2 ^ 16 * b2.toNat)

/-- The value of `op` for each operation (30_encoding.md R64). -/
def Instr.op : Instr → Nat
  | .slice _ _ => 0
  | .cidsd => 1
  | .cidmmc => 2
  | .csdmmc => 3
  | .csdsd10 => 4
  | .csdsd20 => 5
  | .capcsd => 6
  | .capext => 7

/-- The operand fields of an operation, `end*2^7 + start`; the don't-care bits are 0 (30_encoding.md R65 b, R76). -/
def Instr.operandBits : Instr → Nat
  | .slice endBit startBit => endBit * 2 ^ 7 + startBit
  | .cidsd | .cidmmc | .csdmmc | .csdsd10 | .csdsd20 | .capcsd | .capext => 0

/-- The encoder, `cmd = op*2^14 + end*2^7 + start` (30_encoding.md R60), for a well-formed instruction. -/
def encode (i : Instr) : Command := BitVec.ofNat 17 (i.op * 2 ^ 14 + i.operandBits)

/-- What the host asks of the decoder: the instruction read from a table row's bits. -/
def decodeTableWord (nbits w : Nat) : Option Instr :=
  match decodeBits (w % 2 ^ nbits) with
  | .ok i => some i
  | .error _ => none

end Sys2Proof
end

