-- ==== Sys2Proof/Machine/State.lean ====
section
/-!
DEFINITION. The state of the block as plain data: its input ports and its output ports (10_state.md). There is no storage
element (R20, R31); State holds what the ports carry.
-/

namespace Sys2Proof.Machine

/-- The causes of the block's one fault, with the codes 1, 2, 3 of 60_exceptions.md R171. Code 0, `NONE`, is no fault and is
not a cause here. -/
inductive Cause where
  /-- `end < start`; raised by `SLICE`. -/
  | endLtStart
  /-- `end >= start` and `end - start >= 32`; raised by `SLICE`. -/
  | spanGe32
  /-- Reserved for an extractor over `N` words, `end >= 32*N` (R172); no command word of this hardware raises it. -/
  | indexRange
deriving DecidableEq, Repr

/-- A CID record: its driven ports by name, in the order of 41_cid.md R110 or R111. -/
abbrev CidRecord := List (CidPort × Port)

/-- A CSD record: its driven ports by name, in the order of the layout table (42_csd.md R130 to R132). -/
abbrev CsdRecord := List (CsdPort × Port)

/-- The response of an operation: the eight shapes of 10_state.md R33, a sum type so that no port has a value where the spec
gives it none. -/
inductive Response where
  | slice (v : Word)
  | fault (c : Cause)
  | cidSd (rec : CidRecord)
  | cidMmc (rec : CidRecord)
  | csdMmc (rec : CsdRecord)
  | csdSd10 (rec : CsdRecord)
  | csdSd20 (rec : CsdRecord)
  | blocks (n : Port)
deriving DecidableEq, Repr

/-- The Extended CSD space: (address, byte) pairs in the canonical form `Memory.wf` (Machine/Ops.lean). -/
abbrev Memory := List Host.Cell

/-- One request: the three inputs, presented together (10_state.md R20). -/
structure Request where
  cmd : Command
  w : Words
  x : Memory
deriving DecidableEq, Repr

/-- What the ports of the block carry. `cmd`, `w` and `x` are inputs, which only the environment changes (00_scope.md R10);
`response` is the outputs `fault`, `cause`, `R` and `REC` as one value (10_state.md R33; log 1); reset, every operation of the
environment and every step leave it the response to the other three (R32). -/
structure State where
  cmd : Command
  w : Words
  x : Memory
  response : Response
deriving DecidableEq, Repr

/-- Why the MODEL stops. The block's own fault is no constructor here: it is the response `Response.fault` (log 5). -/
inductive Fault where
  /-- An access to an Extended CSD address outside 0 to 511, which the spec says does not exist (10_state.md R30). Raised by
  `memRead` and by the environment's `State.driveX`; no operation of the block makes such an access (20_memory.md R45).
  Safe: the model stops. -/
  | extAddress (addr : Nat)
deriving DecidableEq, Repr

/-- Why an instruction is refused. -/
inductive Refusal where
  /-- The instruction has no meaning in the model. Raised by a refused arm of `exec`; there is none. Safe: the model stops. -/
  | notModelled (mnemonic : String)
deriving DecidableEq, Repr

/-- The ports with every input at 0 and nothing listed in `X` (DESIGN CHOICE, logs 2 and 4: the spec gives no reset value, R32).
The outputs are the function of these inputs, as 70_reset_and_hazards.md R190 says of any moment: the command word 0 is
`SLICE 0, 0`, which answers bit 0 of `W[0]` (log 3). -/
def State.reset : State where
  cmd := 0#17
  w := { w0 := 0#32, w1 := 0#32, w2 := 0#32, w3 := 0#32 }
  x := []
  response := .slice 0#32

end Sys2Proof.Machine
end

