-- ==== Sys2Proof/Machine/Ops.lean ====
section
/-!
DEFINITION. The named operations over the ports and the Extended CSD space, and taking the block's fault.
-/

namespace Sys2Proof.Machine

/-- `EXT_LEN`: the Extended CSD space is 512 bytes (00_scope.md R5). -/
def extLen : Nat := 512

/-- What a byte of `X` that nothing has driven reads as (DESIGN CHOICE, unsafe, log 4). -/
def Memory.unlisted : Byte := 0#8

/-- The byte at an address. -/
def Memory.read (m : Memory) (addr : Nat) : Byte :=
  match m with
  | [] => Memory.unlisted
  | (a, b) :: rest => if a = addr then b else Memory.read rest addr

/-- The memory with one byte replaced, in canonical form: addresses stay rising, and a byte that equals what an unlisted
address reads as is not listed. -/
def Memory.write (m : Memory) (addr : Nat) (v : Byte) : Memory :=
  match m with
  | [] => if v = Memory.unlisted then [] else [(addr, v)]
  | (a, b) :: rest =>
    if addr < a then
      if v = Memory.unlisted then (a, b) :: rest else (addr, v) :: (a, b) :: rest
    else if a = addr then
      if v = Memory.unlisted then rest else (addr, v) :: rest
    else (a, b) :: Memory.write rest addr v

/-- Every listed address is at least `low`, they rise strictly, they lie in the space, and no listed byte is what an unlisted
address reads as. -/
def Memory.wfFrom (low : Nat) : Memory → Bool
  | [] => true
  | (a, b) :: rest =>
    decide (low ≤ a) && decide (a < extLen) && decide (b ≠ Memory.unlisted) && Memory.wfFrom (a + 1) rest

/-- The canonical form of the Extended CSD space. -/
def Memory.wf (m : Memory) : Bool := Memory.wfFrom 0 m

/-- `n` bytes from `addr` up as a number, the byte at `addr` least significant (00_scope.md R10). -/
def Memory.number (m : Memory) (addr : Nat) : Nat → Nat
  | 0 => 0
  | n + 1 => (m.read addr).toNat + 2 ^ 8 * Memory.number m (addr + 1) n

/-- `MemRead(addr, n)` (00_scope.md R10). An access outside the space faults. -/
def memRead (m : Memory) (addr n : Nat) : Except Fault Nat :=
  if addr + n ≤ extLen then .ok (m.number addr n) else .error (.extAddress addr)

/-- The four words in index order, `W[0]` first: DOC0's "words array" (00_scope.md R12 RegisterWords). -/
def wordArray (w : Words) : List Word := [w.w0, w.w1, w.w2, w.w3]

/-- The command word the environment presents. The block fetches nothing else (20_memory.md R51). -/
def State.fetch (s : State) : Command := s.cmd

/-- The inputs of the state, as one request. -/
def State.request (s : State) : Request := { cmd := s.cmd, w := s.w, x := s.x }

/-- The state with other inputs, its outputs not looked at. The environment's own operations, whose outputs follow the inputs, are
in Machine/Drive.lean. -/
def State.setInputs (s : State) (q : Request) : State := { s with cmd := q.cmd, w := q.w, x := q.x }

/-- An operation that completes drives the outputs of its response; it writes nothing else (00_scope.md R10). -/
def State.answer (s : State) (r : Response) : State := { s with response := r }

/-- TAKING THE FAULT (60_exceptions.md R176): `fault = 1` and `cause = c` on the outputs of the same operation, `R` and `REC`
without a value, nothing saved and control going nowhere. There is no return from it: the next operation behaves as if it had
not happened (R177). -/
def State.raiseFault (s : State) (c : Cause) : State := s.answer (.fault c)

/-- The outcome of an operation whose reads may leave the Extended CSD space. -/
def State.complete (s : State) : Except Fault Response → Host.Outcome State Fault Refusal
  | .ok r => .next (s.answer r)
  | .error f => .fault f

end Sys2Proof.Machine
end

