-- ==== Sys2Proof/Machine/Flags.lean ====
section
/-!
DEFINITION. The status outputs (10_state.md R27), the other output ports as views of the response, and the extractor's
precondition. The block has no condition code.
-/

namespace Sys2Proof.Machine

/-- The code of a cause on the 2-bit output `cause` (60_exceptions.md R171). -/
def Cause.code : Cause → BitVec 2
  | .endLtStart => 1#2
  | .spanGe32 => 2#2
  | .indexRange => 3#2

/-- The extractor's precondition over `nWords` words: the cause of the fault, or none where it holds. `end < start` is tested
first, then the span, then the range of the index (60_exceptions.md R172, R174). -/
def sliceCause (nWords endBit startBit : Nat) : Option Cause :=
  if endBit < startBit then some .endLtStart
  else if 32 ≤ endBit - startBit then some .spanGe32
  else if 32 * nWords ≤ endBit then some .indexRange
  else none

/-- The output `fault` (10_state.md R27, R33). -/
def Response.faultBit : Response → BitVec 1
  | .fault _ => 1#1
  | .slice _ | .cidSd _ | .cidMmc _ | .csdMmc _ | .csdSd10 _ | .csdSd20 _ | .blocks _ => 0#1

/-- The output `cause` (10_state.md R27, R33). -/
def Response.causeBits : Response → BitVec 2
  | .fault c => c.code
  | .slice _ | .cidSd _ | .cidMmc _ | .csdMmc _ | .csdSd10 _ | .csdSd20 _ | .blocks _ => 0#2

/-- The output `R`, where the operation drives it (10_state.md R24, R33). -/
def Response.scalar : Response → Option Port
  | .slice v => some { width := 32, value := v }
  | .blocks n => some n
  | .fault _ | .cidSd _ | .cidMmc _ | .csdMmc _ | .csdSd10 _ | .csdSd20 _ => none

/-- The output `REC` in one of its two CID shapes, where the operation drives one (10_state.md R25). -/
def Response.cidRecord : Response → Option CidRecord
  | .cidSd rec | .cidMmc rec => some rec
  | .slice _ | .fault _ | .csdMmc _ | .csdSd10 _ | .csdSd20 _ | .blocks _ => none

/-- The output `REC` in one of its three CSD shapes, where the operation drives one (10_state.md R25). -/
def Response.csdRecord : Response → Option CsdRecord
  | .csdMmc rec | .csdSd10 rec | .csdSd20 rec => some rec
  | .slice _ | .fault _ | .cidSd _ | .cidMmc _ | .blocks _ => none

end Sys2Proof.Machine
end

