-- ==== Sys2Proof/Machine/Operands.lean ====
section
/-!
DEFINITION. The operand forms: a bit slice of the register words (the extractor, 40_slice.md), and the bytes of the Extended
CSD sector count (20_memory.md R43).
-/

namespace Sys2Proof.Machine

/-- The register bitstream: the words in index order, word 0 least significant, as one number. Over four words it is
`S = W[0] + W[1]*2^32 + W[2]*2^64 + W[3]*2^96` (20_memory.md R40). -/
def stream : List Word → Nat
  | [] => 0
  | w :: rest => w.toNat + 2 ^ 32 * stream rest

/-- The extractor's result, `S[end:start] = (S div 2^start) mod 2^(end - start + 1)`, right-aligned in 32 bits
(40_slice.md R91, 00_scope.md R8). Its callers meet the precondition: `sliceWords` tests it, and a `FieldSlice` cannot be
built without it. -/
def extract (ws : List Word) (endBit startBit : Nat) : Word :=
  BitVec.ofNat 32 (stream ws / 2 ^ startBit % 2 ^ (endBit - startBit + 1))

/-- The extractor as the contract states it, over a words array of any length: the value, or the cause of the fault
(40_slice.md R90, 60_exceptions.md R172). -/
def sliceWords (ws : List Word) (endBit startBit : Nat) : Except Cause Word :=
  match sliceCause ws.length endBit startBit with
  | none => .ok (extract ws endBit startBit)
  | some c => .error c

/-- The value of a FieldSlice: `SLICE(W, end, start)` inside a decoder or a capacity rule (00_scope.md R11). -/
def sliceValue (ws : List Word) (f : FieldSlice) : Word := extract ws f.endBit f.startBit

/-- A record port driven with a slice, as wide as the slice (10_state.md R25). -/
def slicePort (ws : List Word) (f : FieldSlice) : Port :=
  { width := f.width, value := (sliceValue ws f).setWidth f.width }

/-- The word at an index of the array; no index outside the array is read. -/
def wordAt (ws : List Word) (i : Nat) : Word := ws.getD i 0#32

/-- The algorithm the spec prescribes, which reads at most two words (40_slice.md R92). The mask is formed over the natural
numbers, so that its width may be 32 (D6). -/
def extractTwoPiece (ws : List Word) (endBit startBit : Nat) : Word :=
  let startWord := startBit / 32
  let startOffset := startBit % 32
  let endWord := endBit / 32
  let endOffset := endBit % 32
  let endMask : Word := BitVec.ofNat 32 (2 ^ (endOffset + 1) - 1)
  if startWord = endWord then
    (wordAt ws startWord &&& endMask) >>> startOffset
  else
    (wordAt ws startWord >>> startOffset) ||| ((wordAt ws endWord &&& endMask) <<< (32 - startOffset))

/-- `SEC_OFF`: where the sector count lies in the Extended CSD (00_scope.md R5, 30_encoding.md R74). -/
def sectorOffset : Nat := 212

/-- The sector count: bytes 212 to 215, byte 215 most significant (20_memory.md R43, 43_capacity.md R155). -/
def sectorCount (x : Memory) : Except Fault Nat := do
  let b0 ← memRead x sectorOffset 1
  let b1 ← memRead x (sectorOffset + 1) 1
  let b2 ← memRead x (sectorOffset + 2) 1
  let b3 ← memRead x (sectorOffset + 3) 1
  return b0 + b1 * 2 ^ 8 + b2 * 2 ^ 16 + b3 * 2 ^ 24

end Sys2Proof.Machine
end

