-- ==== Sys2Proof/Machine/Tables.lean ====
section
/-!
DEFINITION. The field tables of this hardware (30_encoding.md part 3), the constants of the decoders, and the parameters'
default values (00_scope.md R5).
-/

namespace Sys2Proof.Machine

/-- Layout `CID_SD`, 13 slices (30_encoding.md R68). The positions are the spec's own (GK1, log 8). -/
def layoutCidSd : List CidRow := [
  ⟨.port .mid, { endBit := 127, startBit := 120 }⟩,
  ⟨.port .oid, { endBit := 119, startBit := 104 }⟩,
  ⟨.pnm 4, { endBit := 103, startBit := 96 }⟩,
  ⟨.pnm 3, { endBit := 95, startBit := 88 }⟩,
  ⟨.pnm 2, { endBit := 87, startBit := 80 }⟩,
  ⟨.pnm 1, { endBit := 79, startBit := 72 }⟩,
  ⟨.pnm 0, { endBit := 71, startBit := 64 }⟩,
  ⟨.port .prvN, { endBit := 63, startBit := 60 }⟩,
  ⟨.port .prvM, { endBit := 59, startBit := 56 }⟩,
  ⟨.port .psn, { endBit := 55, startBit := 24 }⟩,
  ⟨.mdtY, { endBit := 19, startBit := 12 }⟩,
  ⟨.port .mdtM, { endBit := 11, startBit := 8 }⟩,
  ⟨.port .crc, { endBit := 7, startBit := 1 }⟩]

/-- Layout `CID_MMC`, 14 slices (30_encoding.md R69). The positions are the spec's own (GK2, log 8). -/
def layoutCidMmc : List CidRow := [
  ⟨.port .mid, { endBit := 127, startBit := 120 }⟩,
  ⟨.port .oid, { endBit := 119, startBit := 104 }⟩,
  ⟨.pnm 5, { endBit := 103, startBit := 96 }⟩,
  ⟨.pnm 4, { endBit := 95, startBit := 88 }⟩,
  ⟨.pnm 3, { endBit := 87, startBit := 80 }⟩,
  ⟨.pnm 2, { endBit := 79, startBit := 72 }⟩,
  ⟨.pnm 1, { endBit := 71, startBit := 64 }⟩,
  ⟨.pnm 0, { endBit := 63, startBit := 56 }⟩,
  ⟨.port .prvN, { endBit := 55, startBit := 52 }⟩,
  ⟨.port .prvM, { endBit := 51, startBit := 48 }⟩,
  ⟨.port .psn, { endBit := 47, startBit := 16 }⟩,
  ⟨.port .mdtM, { endBit := 15, startBit := 12 }⟩,
  ⟨.mdtY, { endBit := 11, startBit := 8 }⟩,
  ⟨.port .crc, { endBit := 7, startBit := 1 }⟩]

/-- Layout `CSD_SD10`, 29 slices (30_encoding.md R70). The positions are the spec's own (GK3, log 8). -/
def layoutCsdSd10 : List CsdRow := [
  ⟨.csdStructure, { endBit := 127, startBit := 126 }⟩,
  ⟨.taac, { endBit := 119, startBit := 112 }⟩,
  ⟨.nsac, { endBit := 111, startBit := 104 }⟩,
  ⟨.tranSpeed, { endBit := 103, startBit := 96 }⟩,
  ⟨.ccc, { endBit := 95, startBit := 84 }⟩,
  ⟨.readBlLen, { endBit := 83, startBit := 80 }⟩,
  ⟨.readBlPartial, { endBit := 79, startBit := 79 }⟩,
  ⟨.writeBlkMisalign, { endBit := 78, startBit := 78 }⟩,
  ⟨.readBlkMisalign, { endBit := 77, startBit := 77 }⟩,
  ⟨.dsrImp, { endBit := 76, startBit := 76 }⟩,
  ⟨.cSize, { endBit := 73, startBit := 62 }⟩,
  ⟨.vddRCurrMin, { endBit := 61, startBit := 59 }⟩,
  ⟨.vddRCurrMax, { endBit := 58, startBit := 56 }⟩,
  ⟨.vddWCurrMin, { endBit := 55, startBit := 53 }⟩,
  ⟨.vddWCurrMax, { endBit := 52, startBit := 50 }⟩,
  ⟨.cSizeMult, { endBit := 49, startBit := 47 }⟩,
  ⟨.eraseBlkEn, { endBit := 46, startBit := 46 }⟩,
  ⟨.eraseSectorSize, { endBit := 45, startBit := 39 }⟩,
  ⟨.wpGrpSize, { endBit := 38, startBit := 32 }⟩,
  ⟨.wpGrpEnable, { endBit := 31, startBit := 31 }⟩,
  ⟨.r2wFactor, { endBit := 28, startBit := 26 }⟩,
  ⟨.writeBlLen, { endBit := 25, startBit := 22 }⟩,
  ⟨.writeBlPartial, { endBit := 21, startBit := 21 }⟩,
  ⟨.fileFormatGrp, { endBit := 15, startBit := 15 }⟩,
  ⟨.copy, { endBit := 14, startBit := 14 }⟩,
  ⟨.permWriteProtect, { endBit := 13, startBit := 13 }⟩,
  ⟨.tmpWriteProtect, { endBit := 12, startBit := 12 }⟩,
  ⟨.fileFormat, { endBit := 11, startBit := 10 }⟩,
  ⟨.crc, { endBit := 7, startBit := 1 }⟩]

/-- Layout `CSD_SD20`, 24 slices (30_encoding.md R71). The positions are the spec's own (GK4, log 8); `write_bl_len` is
25:22 as the card specification has it (GK8). -/
def layoutCsdSd20 : List CsdRow := [
  ⟨.csdStructure, { endBit := 127, startBit := 126 }⟩,
  ⟨.taac, { endBit := 119, startBit := 112 }⟩,
  ⟨.nsac, { endBit := 111, startBit := 104 }⟩,
  ⟨.tranSpeed, { endBit := 103, startBit := 96 }⟩,
  ⟨.ccc, { endBit := 95, startBit := 84 }⟩,
  ⟨.readBlLen, { endBit := 83, startBit := 80 }⟩,
  ⟨.readBlPartial, { endBit := 79, startBit := 79 }⟩,
  ⟨.writeBlkMisalign, { endBit := 78, startBit := 78 }⟩,
  ⟨.readBlkMisalign, { endBit := 77, startBit := 77 }⟩,
  ⟨.dsrImp, { endBit := 76, startBit := 76 }⟩,
  ⟨.cSize, { endBit := 69, startBit := 48 }⟩,
  ⟨.eraseBlkEn, { endBit := 46, startBit := 46 }⟩,
  ⟨.eraseSectorSize, { endBit := 45, startBit := 39 }⟩,
  ⟨.wpGrpSize, { endBit := 38, startBit := 32 }⟩,
  ⟨.wpGrpEnable, { endBit := 31, startBit := 31 }⟩,
  ⟨.r2wFactor, { endBit := 28, startBit := 26 }⟩,
  ⟨.writeBlLen, { endBit := 25, startBit := 22 }⟩,
  ⟨.writeBlPartial, { endBit := 21, startBit := 21 }⟩,
  ⟨.fileFormatGrp, { endBit := 15, startBit := 15 }⟩,
  ⟨.copy, { endBit := 14, startBit := 14 }⟩,
  ⟨.permWriteProtect, { endBit := 13, startBit := 13 }⟩,
  ⟨.tmpWriteProtect, { endBit := 12, startBit := 12 }⟩,
  ⟨.fileFormat, { endBit := 11, startBit := 10 }⟩,
  ⟨.crc, { endBit := 7, startBit := 1 }⟩]

/-- Layout `CSD_MMC`, 33 slices (30_encoding.md R72). The positions are the spec's own (GK5, log 8). -/
def layoutCsdMmc : List CsdRow := [
  ⟨.csdStructure, { endBit := 127, startBit := 126 }⟩,
  ⟨.specVers, { endBit := 125, startBit := 122 }⟩,
  ⟨.taac, { endBit := 119, startBit := 112 }⟩,
  ⟨.nsac, { endBit := 111, startBit := 104 }⟩,
  ⟨.tranSpeed, { endBit := 103, startBit := 96 }⟩,
  ⟨.ccc, { endBit := 95, startBit := 84 }⟩,
  ⟨.readBlLen, { endBit := 83, startBit := 80 }⟩,
  ⟨.readBlPartial, { endBit := 79, startBit := 79 }⟩,
  ⟨.writeBlkMisalign, { endBit := 78, startBit := 78 }⟩,
  ⟨.readBlkMisalign, { endBit := 77, startBit := 77 }⟩,
  ⟨.dsrImp, { endBit := 76, startBit := 76 }⟩,
  ⟨.cSize, { endBit := 73, startBit := 62 }⟩,
  ⟨.vddRCurrMin, { endBit := 61, startBit := 59 }⟩,
  ⟨.vddRCurrMax, { endBit := 58, startBit := 56 }⟩,
  ⟨.vddWCurrMin, { endBit := 55, startBit := 53 }⟩,
  ⟨.vddWCurrMax, { endBit := 52, startBit := 50 }⟩,
  ⟨.cSizeMult, { endBit := 49, startBit := 47 }⟩,
  ⟨.eraseGrpSize, { endBit := 46, startBit := 42 }⟩,
  ⟨.eraseGrpMult, { endBit := 41, startBit := 37 }⟩,
  ⟨.wpGrpSize, { endBit := 36, startBit := 32 }⟩,
  ⟨.wpGrpEnable, { endBit := 31, startBit := 31 }⟩,
  ⟨.defaultEcc, { endBit := 30, startBit := 29 }⟩,
  ⟨.r2wFactor, { endBit := 28, startBit := 26 }⟩,
  ⟨.writeBlLen, { endBit := 25, startBit := 22 }⟩,
  ⟨.writeBlPartial, { endBit := 21, startBit := 21 }⟩,
  ⟨.contentProtApp, { endBit := 16, startBit := 16 }⟩,
  ⟨.fileFormatGrp, { endBit := 15, startBit := 15 }⟩,
  ⟨.copy, { endBit := 14, startBit := 14 }⟩,
  ⟨.permWriteProtect, { endBit := 13, startBit := 13 }⟩,
  ⟨.tmpWriteProtect, { endBit := 12, startBit := 12 }⟩,
  ⟨.fileFormat, { endBit := 11, startBit := 10 }⟩,
  ⟨.ecc, { endBit := 9, startBit := 8 }⟩,
  ⟨.crc, { endBit := 7, startBit := 1 }⟩]

/-- The slices of `CAPCSD` (30_encoding.md R73). Their widths are DOC0's, their positions the spec's own (GK6, log 8). -/
def layoutCapacity : CapSlices where
  csdStructure := { endBit := 127, startBit := 126 }
  cSizeV0 := { endBit := 73, startBit := 62 }
  cSizeMult := { endBit := 49, startBit := 47 }
  readBlLen := { endBit := 83, startBit := 80 }
  cSizeV1 := { endBit := 69, startBit := 48 }

/-- `TABLES` at its default (00_scope.md R5). -/
def tables : Tables where
  cidSd := layoutCidSd
  cidMmc := layoutCidMmc
  csdMmc := layoutCsdMmc
  csdSd10 := layoutCsdSd10
  csdSd20 := layoutCsdSd20
  capacity := layoutCapacity

/-- The parameters of this hardware: each at the default of 00_scope.md R5 (log 7). -/
def config : Config where
  capWidth := 32
  strict := true
  rblLt9 := .zero
  tables := tables

/-- `EPOCH_SD` (00_scope.md R5). -/
def epochSd : Nat := 2000

/-- `EPOCH_MMC` (00_scope.md R5). -/
def epochMmc : Nat := 1997

/-- `PNM_LEN_SD` (00_scope.md R5). -/
def pnmLenSd : Nat := 5

/-- `PNM_LEN_MMC` (00_scope.md R5). -/
def pnmLenMmc : Nat := 6

end Sys2Proof.Machine
end

