-- ==== Sys2Proof/Machine/Capacity.lean ====
section
/-!
DEFINITION. The capacity calculators `CAPCSD` and `CAPEXT` (43_capacity.md). A capacity counts blocks of 512 bytes.
-/

namespace Sys2Proof.Machine

/-- Structure version 0 (43_capacity.md R151): `(c_size + 1) << (c_size_mult + 2) << (read_bl_len - 9)`, for
`read_bl_len >= 9`. -/
def blocksV0 (cSize cSizeMult readBlLen : Nat) : Nat :=
  (cSize + 1) * 2 ^ (cSizeMult + 2) * 2 ^ (readBlLen - 9)

/-- Structure version 1 (43_capacity.md R152). -/
def blocksV1 (cSize : Nat) : Nat := 1024 * (cSize + 1)

/-- Structure version 0 with `read_bl_len < 9` (43_capacity.md R154): the sentinel 0, or a free value. -/
def shortBlockBlocks (cfg : Config) (w : Words) : Nat :=
  match cfg.rblLt9 with
  | .zero => 0
  | .any => (Config.shortBlockCapacity w).toNat

/-- The block count of `CAPCSD`, before it is taken modulo `2^CAP_WIDTH`: a split by structure version; a reserved version
gives 0 (43_capacity.md R150, R153). -/
def csdBlocks (cfg : Config) (w : Words) : Nat :=
  let ws := wordArray w
  let t := cfg.tables.capacity
  let version := (sliceValue ws t.csdStructure).toNat
  if version = 0 then
    let readBlLen := (sliceValue ws t.readBlLen).toNat
    if 9 ≤ readBlLen then
      blocksV0 (sliceValue ws t.cSizeV0).toNat (sliceValue ws t.cSizeMult).toNat readBlLen
    else shortBlockBlocks cfg w
  else if version = 1 then blocksV1 (sliceValue ws t.cSizeV1).toNat
  else 0

/-- A capacity on the port `R`, `CAP_WIDTH` bits wide (10_state.md R24, 43_capacity.md R152). -/
def blocksResponse (cfg : Config) (n : Nat) : Response :=
  .blocks { width := cfg.capWidth, value := BitVec.ofNat cfg.capWidth n }

/-- `CAPCSD` at any value of the parameters (43_capacity.md R150). -/
def capCsdWith (cfg : Config) (s : State) : Host.Outcome State Fault Refusal :=
  .next (s.answer (blocksResponse cfg (csdBlocks cfg s.w)))

/-- `CAPEXT` at any value of the parameters (43_capacity.md R155). -/
def capExtWith (cfg : Config) (s : State) : Host.Outcome State Fault Refusal :=
  s.complete ((sectorCount s.x).map (blocksResponse cfg))

/-- `CAPCSD` (43_capacity.md R150). -/
def execCapcsd (s : State) : Host.Outcome State Fault Refusal := capCsdWith config s

/-- `CAPEXT` (43_capacity.md R155). -/
def execCapext (s : State) : Host.Outcome State Fault Refusal := capExtWith config s

end Sys2Proof.Machine
end

