-- ==== Sys2Proof/Machine/Cid.lean ====
section
/-!
DEFINITION. The CID decoders `CIDSD` and `CIDMMC` (41_cid.md).
-/

namespace Sys2Proof.Machine

/-- The year port: the raw slice plus the family's epoch, 16 bits (41_cid.md R112, 10_state.md R25). A sum of 2^16 or more, which
only a `TABLES` with a wider year slice than the default's can give, has no value in the spec: a free value (DESIGN CHOICE,
log 21). -/
def yearPort (epoch : Nat) (ws : List Word) (f : FieldSlice) : Port :=
  let year := (sliceValue ws f).toNat + epoch
  { width := 16, value := if year < 2 ^ 16 then BitVec.ofNat 16 year else Config.overlongYear epoch f ws }

/-- The port a row of a CID layout drives. A row goes to the port of its own name, with two transforms: `PNM<k>` goes to element
`pnmLen - 1 - k` of `pnm` (41_cid.md R113), and the year is biased (R112). What the spec does not
speak of, a row `PNM<k>` with `k >= pnmLen` (here sent to element 0), a name slice that is not 8 bits wide (here a port as wide as
the slice), or a row named as an element of `pnm` or as `mdt_y` (here sent there raw), is the MODEL's choice (DESIGN CHOICE,
log 22), and such a layout is not `cidLayoutWellFormed`. -/
def cidRowPort (epoch pnmLen : Nat) (ws : List Word) (r : CidRow) : CidPort × Port :=
  match r.name with
  | .port p => (p, slicePort ws r.slice)
  | .pnm k => (.pnm (pnmLen - 1 - k), slicePort ws r.slice)
  | .mdtY => (.mdtY, yearPort epoch ws r.slice)

/-- A CID record: every row of the layout, each computed from the same words (41_cid.md R110, R111; D23). -/
def cidRecordOf (epoch pnmLen : Nat) (t : List CidRow) (ws : List Word) : CidRecord :=
  t.map (cidRowPort epoch pnmLen ws)

/-- `CIDSD` at any value of the parameters (41_cid.md R110). -/
def cidSdWith (cfg : Config) (s : State) : Host.Outcome State Fault Refusal :=
  .next (s.answer (.cidSd (cidRecordOf epochSd pnmLenSd cfg.tables.cidSd (wordArray s.w))))

/-- `CIDMMC` at any value of the parameters (41_cid.md R111). -/
def cidMmcWith (cfg : Config) (s : State) : Host.Outcome State Fault Refusal :=
  .next (s.answer (.cidMmc (cidRecordOf epochMmc pnmLenMmc cfg.tables.cidMmc (wordArray s.w))))

/-- `CIDSD` (41_cid.md R110). -/
def execCidsd (s : State) : Host.Outcome State Fault Refusal := cidSdWith config s

/-- `CIDMMC` (41_cid.md R111). -/
def execCidmmc (s : State) : Host.Outcome State Fault Refusal := cidMmcWith config s

end Sys2Proof.Machine
end

