-- ==== Sys2Proof/Machine/Csd.lean ====
section
/-!
DEFINITION. The CSD decoders `CSDMMC`, `CSDSD10` and `CSDSD20` (42_csd.md).
-/

namespace Sys2Proof.Machine

/-- A CSD record: one extraction for every row of the layout, and nothing else (42_csd.md R130 to R132). -/
def csdRecordOf (t : List CsdRow) (ws : List Word) : CsdRecord :=
  t.map fun r => (r.port, slicePort ws r.slice)

/-- `CSDMMC` at any value of the parameters (42_csd.md R130). -/
def csdMmcWith (cfg : Config) (s : State) : Host.Outcome State Fault Refusal :=
  .next (s.answer (.csdMmc (csdRecordOf cfg.tables.csdMmc (wordArray s.w))))

/-- `CSDSD10` at any value of the parameters (42_csd.md R131). -/
def csdSd10With (cfg : Config) (s : State) : Host.Outcome State Fault Refusal :=
  .next (s.answer (.csdSd10 (csdRecordOf cfg.tables.csdSd10 (wordArray s.w))))

/-- `CSDSD20` at any value of the parameters (42_csd.md R132). -/
def csdSd20With (cfg : Config) (s : State) : Host.Outcome State Fault Refusal :=
  .next (s.answer (.csdSd20 (csdRecordOf cfg.tables.csdSd20 (wordArray s.w))))

/-- `CSDMMC` (42_csd.md R130). -/
def execCsdmmc (s : State) : Host.Outcome State Fault Refusal := csdMmcWith config s

/-- `CSDSD10` (42_csd.md R131). -/
def execCsdsd10 (s : State) : Host.Outcome State Fault Refusal := csdSd10With config s

/-- `CSDSD20` (42_csd.md R132). -/
def execCsdsd20 (s : State) : Host.Outcome State Fault Refusal := csdSd20With config s

end Sys2Proof.Machine
end

