-- ==== Sys2Proof/Machine/Slice.lean ====
section
/-!
DEFINITION. `SLICE` (40_slice.md).
-/

namespace Sys2Proof.Machine

/-- `SLICE end, start` at any value of the parameters (40_slice.md R90, R91, R94). Where the precondition fails: the fault if
`STRICT`, else a response `Slice(v)` with a free `v`. -/
def sliceWith (cfg : Config) (endBit startBit : Nat) (s : State) : Host.Outcome State Fault Refusal :=
  match sliceWords (wordArray s.w) endBit startBit with
  | .ok v => .next (s.answer (.slice v))
  | .error c =>
    if cfg.strict then .next (s.raiseFault c)
    else .next (s.answer (.slice (Config.uncheckedSlice endBit startBit s.w)))

/-- `SLICE end, start` (40_slice.md R90, R91). -/
def execSlice (endBit startBit : Nat) (s : State) : Host.Outcome State Fault Refusal :=
  sliceWith config endBit startBit s

end Sys2Proof.Machine
end

