-- ==== Sys2Proof/Machine/Dispatch.lean ====
section
/-!
DEFINITION. Each operation's meaning, one arm per row of the opcode table (30_encoding.md R64).
-/

namespace Sys2Proof.Machine

def exec (i : Instr) (s : State) : Host.Outcome State Fault Refusal :=
  match i with
  | .slice endBit startBit => Sys2Proof.Machine.execSlice endBit startBit s
  | .cidsd => Sys2Proof.Machine.execCidsd s
  | .cidmmc => Sys2Proof.Machine.execCidmmc s
  | .csdmmc => Sys2Proof.Machine.execCsdmmc s
  | .csdsd10 => Sys2Proof.Machine.execCsdsd10 s
  | .csdsd20 => Sys2Proof.Machine.execCsdsd20 s
  | .capcsd => Sys2Proof.Machine.execCapcsd s
  | .capext => Sys2Proof.Machine.execCapext s

end Sys2Proof.Machine
end

