-- ==== Sys2Proof/Machine/Drive.lean ====
section
/-!
DEFINITION. The block as a function of its inputs, and the environment driving those inputs. The outputs are a function of the
present inputs at every moment (10_state.md R32, 70_reset_and_hazards.md R190): every operation of the environment leaves the
response to the inputs it drove.
-/

namespace Sys2Proof.Machine

/-- One operation: the command on `cmd` is decoded and answered from one snapshot of the inputs (20_memory.md R48). -/
def operate (s : State) : Host.Outcome State Fault Refusal := exec (decodeCmd s.fetch) s

/-- The response an operation leaves on the output ports, where it has a next state. -/
def responseOf : Host.Outcome State Fault Refusal → Option Response
  | .next s => some s.response
  | .fault _ => none
  | .refused _ => none

/-- The block as a function from request to response (10_state.md R20). -/
def respond (q : Request) : Option Response := responseOf (operate (State.reset.setInputs q))

/-- The outputs follow the inputs (10_state.md R32, 70_reset_and_hazards.md R190). Every command word is answered, so the response
held before is never kept. -/
def State.settle (s : State) : State := s.answer ((responseOf (operate s)).getD s.response)

/-- The environment presents a request (70_reset_and_hazards.md R191), and the outputs follow. -/
def State.present (s : State) (q : Request) : State := (s.setInputs q).settle

/-- The environment drives the command word, and the outputs follow. -/
def State.driveCmd (s : State) (c : Command) : State := s.present { s.request with cmd := c }

/-- The environment drives the register words, and the outputs follow. -/
def State.driveWords (s : State) (w : Words) : State := s.present { s.request with w := w }

/-- The environment drives one byte of `X`, and the outputs follow. There is no byte at 512 or above (10_state.md R30). -/
def State.driveX (s : State) (addr : Nat) (v : Byte) : Except Fault State :=
  if addr < extLen then .ok (s.present { s.request with x := s.x.write addr v }) else .error (.extAddress addr)

end Sys2Proof.Machine
end

