-- ==== Sys2Proof/Machine/Step.lean ====
section
/-!
DEFINITION. One step: the block answers the request its inputs present (10_state.md R20).
-/

namespace Sys2Proof.Machine

/-- One operation on the inputs the environment presents. There is no program counter to advance (10_state.md R26). -/
def step (s : State) : Host.Outcome State Fault Refusal := operate s

/-- The state with a table row's bits driven on the command port, where the next step takes its command from (log 6). Bits of
the number above bit 16 have no wire on the 17-bit port and are dropped: the MODEL's choice (DESIGN CHOICE, log 23). -/
def State.withFetchWord (s : State) (nbits w : Nat) : State := s.driveCmd (BitVec.ofNat 17 (w % 2 ^ nbits))

end Sys2Proof.Machine
end

