-- ==== Sys2Proof/Machine/Asm.lean ====
section
/-!
DEFINITION. Assembler text (30_encoding.md part 4): the printer, the assembler of a line, and the pseudo-instruction `FIELD`.
Text is a list of characters.
-/

namespace Sys2Proof.Machine

/-- The mnemonic of an operation (30_encoding.md R76). -/
def mnemonicText : Instr → List Char
  | .slice _ _ => "SLICE".toList
  | .cidsd => "CIDSD".toList
  | .cidmmc => "CIDMMC".toList
  | .csdmmc => "CSDMMC".toList
  | .csdsd10 => "CSDSD10".toList
  | .csdsd20 => "CSDSD20".toList
  | .capcsd => "CAPCSD".toList
  | .capext => "CAPEXT".toList

/-- The name of a row of a CID layout, spelled as in the tables of 30_encoding.md R68 and R69. -/
def cidRowText : CidRowName → List Char
  | .port .mid => "mid".toList
  | .port .oid => "oid".toList
  | .port (.pnm i) => "pnm".toList ++ Nat.toDigits 10 i
  | .port .prvN => "prv_n".toList
  | .port .prvM => "prv_m".toList
  | .port .psn => "psn".toList
  | .port .mdtY => "mdt_y".toList
  | .port .mdtM => "mdt_m".toList
  | .port .crc => "crc".toList
  | .pnm k => "PNM".toList ++ Nat.toDigits 10 k
  | .mdtY => "MDT_Y".toList

/-- The name of a row of a CSD layout, spelled as in the tables of 30_encoding.md R70 to R72. -/
def csdRowText : CsdPort → List Char
  | .csdStructure => "csd_structure".toList
  | .specVers => "spec_vers".toList
  | .taac => "taac".toList
  | .nsac => "nsac".toList
  | .tranSpeed => "tran_speed".toList
  | .ccc => "ccc".toList
  | .readBlLen => "read_bl_len".toList
  | .readBlPartial => "read_bl_partial".toList
  | .writeBlkMisalign => "write_blk_misalign".toList
  | .readBlkMisalign => "read_blk_misalign".toList
  | .dsrImp => "dsr_imp".toList
  | .cSize => "c_size".toList
  | .vddRCurrMin => "vdd_r_curr_min".toList
  | .vddRCurrMax => "vdd_r_curr_max".toList
  | .vddWCurrMin => "vdd_w_curr_min".toList
  | .vddWCurrMax => "vdd_w_curr_max".toList
  | .cSizeMult => "c_size_mult".toList
  | .eraseBlkEn => "erase_blk_en".toList
  | .eraseSectorSize => "erase_sector_size".toList
  | .eraseGrpSize => "erase_grp_size".toList
  | .eraseGrpMult => "erase_grp_mult".toList
  | .wpGrpSize => "wp_grp_size".toList
  | .wpGrpEnable => "wp_grp_enable".toList
  | .defaultEcc => "default_ecc".toList
  | .r2wFactor => "r2w_factor".toList
  | .writeBlLen => "write_bl_len".toList
  | .writeBlPartial => "write_bl_partial".toList
  | .contentProtApp => "content_prot_app".toList
  | .fileFormatGrp => "file_format_grp".toList
  | .copy => "copy".toList
  | .permWriteProtect => "perm_write_protect".toList
  | .tmpWriteProtect => "tmp_write_protect".toList
  | .fileFormat => "file_format".toList
  | .ecc => "ecc".toList
  | .crc => "crc".toList

/-- The row a `FIELD` names, in the given tables: its slice, or none where the layout has no such row (30_encoding.md R77). -/
def fieldSlice (t : Tables) : FieldRef → Option FieldSlice
  | .cidSd n => (t.cidSd.find? fun r => decide (r.name = n)).map CidRow.slice
  | .cidMmc n => (t.cidMmc.find? fun r => decide (r.name = n)).map CidRow.slice
  | .csdMmc p => (t.csdMmc.find? fun r => decide (r.port = p)).map CsdRow.slice
  | .csdSd10 p => (t.csdSd10.find? fun r => decide (r.port = p)).map CsdRow.slice
  | .csdSd20 p => (t.csdSd20.find? fun r => decide (r.port = p)).map CsdRow.slice

/-- `FIELD <layout>.<row>` expands to `SLICE end, start` with the slice of that row (30_encoding.md R77). -/
def expandField (f : FieldRef) : Option Instr :=
  (fieldSlice config.tables f).map fun g => .slice g.endBit g.startBit

/-- The text of an instruction: its mnemonic, and for `SLICE` the two operands in decimal, end first (30_encoding.md R76). -/
def printInstr : Instr → List Char
  | .slice endBit startBit =>
    mnemonicText (.slice endBit startBit) ++ ' ' :: Nat.toDigits 10 endBit ++ ',' :: ' ' :: Nat.toDigits 10 startBit
  | i => mnemonicText i

/-- The disassembler of a command word (30_encoding.md R76). -/
def disassemble (c : Command) : List Char := printInstr (decodeCmd c)

/-- A token of a line: a run of characters, or a comma. -/
inductive Token where
  | run (cs : List Char)
  | comma
deriving DecidableEq, Repr

/-- The run gathered so far (backwards), as a token, if it has any character. -/
def closeRun (acc : List Char) : List Token :=
  match acc with
  | [] => []
  | _ :: _ => [.run acc.reverse]

/-- The tokens of a line: a comment runs from `;` to the end of the line (30_encoding.md R76); blanks and tabs separate
(DESIGN CHOICE, log 16). -/
def tokens (cs acc : List Char) : List Token :=
  match cs with
  | [] => closeRun acc
  | c :: rest =>
    if c = ';' then closeRun acc
    else if c = ',' then closeRun acc ++ .comma :: tokens rest []
    else if c = ' ' ∨ c = '\t' then closeRun acc ++ tokens rest []
    else tokens rest (c :: acc)

/-- A decimal digit's value. -/
def digitValue (c : Char) : Option Nat :=
  if '0'.toNat ≤ c.toNat ∧ c.toNat ≤ '9'.toNat then some (c.toNat - '0'.toNat) else none

/-- A run of digits continued from a value. -/
def readDigits (value : Nat) : List Char → Option Nat
  | [] => some value
  | c :: rest =>
    match digitValue c with
    | some d => readDigits (10 * value + d) rest
    | none => none

/-- A decimal operand: at least one digit, nothing else. -/
def readDecimal (cs : List Char) : Option Nat :=
  match cs with
  | [] => none
  | _ :: _ => readDigits 0 cs

/-- The operations that take no operand, by mnemonic. -/
def plainInstrs : List Instr := [.cidsd, .cidmmc, .csdmmc, .csdsd10, .csdsd20, .capcsd, .capext]

/-- The row of a CID layout with a spelled name. -/
def cidRowNamed (t : List CidRow) (cs : List Char) : Option CidRowName :=
  (t.find? fun r => decide (cidRowText r.name = cs)).map CidRow.name

/-- The row of a CSD layout with a spelled name. -/
def csdRowNamed (t : List CsdRow) (cs : List Char) : Option CsdPort :=
  (t.find? fun r => decide (csdRowText r.port = cs)).map CsdRow.port

/-- The operand of `FIELD`: a layout name, a dot, and a row name of that layout (30_encoding.md R77). -/
def readFieldRef (cs : List Char) : Option FieldRef :=
  let layout := cs.takeWhile fun c => decide (c ≠ '.')
  let row := (cs.dropWhile fun c => decide (c ≠ '.')).drop 1
  if layout = "CID_SD".toList then (cidRowNamed config.tables.cidSd row).map .cidSd
  else if layout = "CID_MMC".toList then (cidRowNamed config.tables.cidMmc row).map .cidMmc
  else if layout = "CSD_MMC".toList then (csdRowNamed config.tables.csdMmc row).map .csdMmc
  else if layout = "CSD_SD10".toList then (csdRowNamed config.tables.csdSd10 row).map .csdSd10
  else if layout = "CSD_SD20".toList then (csdRowNamed config.tables.csdSd20 row).map .csdSd20
  else none

/-- An instruction whose operands do not fit their fields is no line of the language. -/
def checkOperands (i : Instr) : Option Instr := if i.wellFormed then some i else none

/-- The instruction of one line that holds one (30_encoding.md R76, R77). -/
def parseTokens : List Token → Option Instr
  | [.run m] => plainInstrs.find? fun i => decide (mnemonicText i = m)
  | [.run m, .run a] =>
    if m = "FIELD".toList then (readFieldRef a).bind expandField else none
  | [.run m, .run a, .comma, .run b] =>
    if m = "SLICE".toList then
      (readDecimal a).bind fun endBit => (readDecimal b).bind fun startBit => checkOperands (.slice endBit startBit)
    else none
  | _ => none

/-- The instruction of a line of text, or none where the line is not of the language. -/
def parseLine (cs : List Char) : Option Instr := parseTokens (tokens cs [])

/-- The command word of a line of text, with the don't-care bits 0 (30_encoding.md R76). -/
def assembleLine (cs : List Char) : Option Command := (parseLine cs).map encode

/-- A line that holds no command: empty, or only a comment. -/
def blankLine (cs : List Char) : Bool := decide (tokens cs [] = [])

/-- The command words of a text, one command a line (30_encoding.md R76); lines without a command are passed over. -/
def assemble : List (List Char) → Option (List Command)
  | [] => some []
  | line :: rest =>
    if blankLine line then assemble rest
    else (assembleLine line).bind fun c => (assemble rest).map (c :: ·)

end Sys2Proof.Machine
end

