-- ==== Sys2Proof/Machine/Program.lean ====
section
/-!
DEFINITION. A program as a list of requests, and its meaning as the list of their responses (10_state.md R20,
30_encoding.md R76).
-/

namespace Sys2Proof.Machine

/-- A program: the environment presents the requests one after another to the block as the last one left it, and takes the
response of each (30_encoding.md R76). -/
def runProgram (s : State) : List Request → Option (List Response)
  | [] => some []
  | q :: rest =>
    match step (s.present q) with
    | .next s' => (runProgram s' rest).map (s'.response :: ·)
    | .fault _ => none
    | .refused _ => none

end Sys2Proof.Machine
end

