-- ==== Sys2Proof/Safety.lean ====
section
/-!
DEFINITION. The terms claims use: the register as one 128-bit string, what counts as a safe request and a safe run (no response
is a fault, 60_exceptions.md R176), and the invariant of the output ports.
-/

namespace Sys2Proof.Spec

/-- The 128-bit register, `W[3]` at the top (20_memory.md R40). -/
def registerBits (w : Words) : BitVec 128 := w.w3 ++ w.w2 ++ w.w1 ++ w.w0

/-- Register bits `hi` down to `lo`, as a port as wide as the slice (00_scope.md R8, 10_state.md R25). -/
def bits (w : Words) (hi lo : Nat) : Port :=
  { width := hi - lo + 1, value := (registerBits w).extractLsb' lo (hi - lo + 1) }

/-- Register bits `hi` down to `lo`, as a number (00_scope.md R8). -/
def bitsNat (w : Words) (hi lo : Nat) : Nat := (registerBits w).toNat / 2 ^ lo % 2 ^ (hi - lo + 1)

/-- The two registers agree on the bits that the mask has set. -/
def agreeOn (mask : BitVec 128) (v w : Words) : Prop := registerBits v &&& mask = registerBits w &&& mask

end Sys2Proof.Spec

namespace Sys2Proof.Machine

/-- The operands a requester must keep to (70_reset_and_hazards.md R196): a `SLICE` meets its precondition. -/
def sliceLegal (endBit startBit : Nat) : Prop := startBit ≤ endBit ∧ endBit - startBit < 32 ∧ endBit < 128

/-- The instruction cannot fault by its operands. -/
def instrLegal : Instr → Prop
  | .slice endBit startBit => sliceLegal endBit startBit
  | .cidsd | .cidmmc | .csdmmc | .csdsd10 | .csdsd20 | .capcsd | .capext => True

/-- The response is no fault: it has a value. -/
def Response.good (r : Response) : Prop := r.faultBit = 0#1

/-- A run is safe: every request is answered, and no response is a fault. -/
def runSafe (s : State) (qs : List Request) : Prop :=
  ∃ rs, runProgram s qs = some rs ∧ ∀ r ∈ rs, r.good

/-- The ports of the SD CID record and their widths (10_state.md R25, 41_cid.md R110). -/
def cidSdShape : List (CidPort × Nat) := [
  (.mid, 8), (.oid, 16), (.pnm 0, 8), (.pnm 1, 8), (.pnm 2, 8), (.pnm 3, 8), (.pnm 4, 8), (.prvN, 4), (.prvM, 4),
  (.psn, 32), (.mdtY, 16), (.mdtM, 4), (.crc, 7)]

/-- The ports of the MMC CID record and their widths (41_cid.md R111). -/
def cidMmcShape : List (CidPort × Nat) := [
  (.mid, 8), (.oid, 16), (.pnm 0, 8), (.pnm 1, 8), (.pnm 2, 8), (.pnm 3, 8), (.pnm 4, 8), (.pnm 5, 8), (.prvN, 4),
  (.prvM, 4), (.psn, 32), (.mdtM, 4), (.mdtY, 16), (.crc, 7)]

/-- The ports of the MMC CSD record and their widths (42_csd.md R130). -/
def csdMmcShape : List (CsdPort × Nat) := [
  (.csdStructure, 2), (.specVers, 4), (.taac, 8), (.nsac, 8), (.tranSpeed, 8), (.ccc, 12), (.readBlLen, 4),
  (.readBlPartial, 1), (.writeBlkMisalign, 1), (.readBlkMisalign, 1), (.dsrImp, 1), (.cSize, 12), (.vddRCurrMin, 3),
  (.vddRCurrMax, 3), (.vddWCurrMin, 3), (.vddWCurrMax, 3), (.cSizeMult, 3), (.eraseGrpSize, 5), (.eraseGrpMult, 5),
  (.wpGrpSize, 5), (.wpGrpEnable, 1), (.defaultEcc, 2), (.r2wFactor, 3), (.writeBlLen, 4), (.writeBlPartial, 1),
  (.contentProtApp, 1), (.fileFormatGrp, 1), (.copy, 1), (.permWriteProtect, 1), (.tmpWriteProtect, 1),
  (.fileFormat, 2), (.ecc, 2), (.crc, 7)]

/-- The ports of the SD CSD 1.0 record and their widths (42_csd.md R131). -/
def csdSd10Shape : List (CsdPort × Nat) := [
  (.csdStructure, 2), (.taac, 8), (.nsac, 8), (.tranSpeed, 8), (.ccc, 12), (.readBlLen, 4), (.readBlPartial, 1),
  (.writeBlkMisalign, 1), (.readBlkMisalign, 1), (.dsrImp, 1), (.cSize, 12), (.vddRCurrMin, 3), (.vddRCurrMax, 3),
  (.vddWCurrMin, 3), (.vddWCurrMax, 3), (.cSizeMult, 3), (.eraseBlkEn, 1), (.eraseSectorSize, 7), (.wpGrpSize, 7),
  (.wpGrpEnable, 1), (.r2wFactor, 3), (.writeBlLen, 4), (.writeBlPartial, 1), (.fileFormatGrp, 1), (.copy, 1),
  (.permWriteProtect, 1), (.tmpWriteProtect, 1), (.fileFormat, 2), (.crc, 7)]

/-- The ports of the SD CSD 2.0 record and their widths (42_csd.md R132). -/
def csdSd20Shape : List (CsdPort × Nat) := [
  (.csdStructure, 2), (.taac, 8), (.nsac, 8), (.tranSpeed, 8), (.ccc, 12), (.readBlLen, 4), (.readBlPartial, 1),
  (.writeBlkMisalign, 1), (.readBlkMisalign, 1), (.dsrImp, 1), (.cSize, 22), (.eraseBlkEn, 1), (.eraseSectorSize, 7),
  (.wpGrpSize, 7), (.wpGrpEnable, 1), (.r2wFactor, 3), (.writeBlLen, 4), (.writeBlPartial, 1), (.fileFormatGrp, 1),
  (.copy, 1), (.permWriteProtect, 1), (.tmpWriteProtect, 1), (.fileFormat, 2), (.crc, 7)]

/-- The name and width of each port of a CID record. -/
def cidShapeOf (r : CidRecord) : List (CidPort × Nat) := r.map fun p => (p.1, p.2.width)

/-- The name and width of each port of a CSD record. -/
def csdShapeOf (r : CsdRecord) : List (CsdPort × Nat) := r.map fun p => (p.1, p.2.width)

/-- The response has a shape this hardware can give (10_state.md R25, R33): each record has exactly the ports of its operation, a
capacity is 32 bits wide (00_scope.md R5), and the cause of a fault is not the reserved one (60_exceptions.md R171). -/
def Response.shaped : Response → Prop
  | .slice _ => True
  | .fault c => c ≠ .indexRange
  | .cidSd rec => cidShapeOf rec = cidSdShape
  | .cidMmc rec => cidShapeOf rec = cidMmcShape
  | .csdMmc rec => csdShapeOf rec = csdMmcShape
  | .csdSd10 rec => csdShapeOf rec = csdSd10Shape
  | .csdSd20 rec => csdShapeOf rec = csdSd20Shape
  | .blocks n => n.width = 32

/-- The outputs are the function of the present inputs (10_state.md R32, 70_reset_and_hazards.md R190). -/
def State.Settled (s : State) : Prop := respond s.request = some s.response

/-- The invariant of the block: `X` is in canonical form, the outputs have a shape this hardware can give, and they are the response
to the present inputs. -/
def State.Inv (s : State) : Prop := s.x.wf = true ∧ s.response.shaped ∧ s.Settled

end Sys2Proof.Machine
end

