-- ==== Sys2Proof/Certificates/Slice0/Obligations.lean ====
section
/-!
DEFINITION. The statements for the provers. A next state written as `s` with a new `response` in a conclusion is the frame: `cmd`, the words and every byte
of `X` stay as they are.
-/

open Sys2Proof Sys2Proof.Machine

/-- Every command word decodes to a well-formed instruction, and a step is that instruction's meaning on the same state: there is
no program counter to move and nothing is added around it (10_state.md part 1, 30_encoding.md part 1). -/
def Obligations.StepRunsDecodedCommand : Prop :=
  ∀ s : State, (decodeCmd s.cmd).wellFormed = true ∧ step s = exec (decodeCmd s.cmd) s

/-- The thirteen words of 95_test_vectors.md section 2.5, and two numbers through decodeTableWord. That 0x20000, which has a bit above bit
16, is refused is no word of that table but the MODEL's choice (DESIGN CHOICE, log 15). A sanity statement. -/
def Obligations.SpecWordsDecode : Prop :=
  decodeCmd 0x00000#17 = .slice 0 0 ∧ decodeCmd 0x03FFF#17 = .slice 127 127 ∧ decodeCmd 0x024BE#17 = .slice 73 62
    ∧ decodeCmd 0x04000#17 = .cidsd ∧ decodeCmd 0x07FFF#17 = .cidsd ∧ decodeCmd 0x08000#17 = .cidmmc
    ∧ decodeCmd 0x0C000#17 = .csdmmc ∧ decodeCmd 0x10000#17 = .csdsd10 ∧ decodeCmd 0x14000#17 = .csdsd20
    ∧ decodeCmd 0x18000#17 = .capcsd ∧ decodeCmd 0x18ABC#17 = .capcsd ∧ decodeCmd 0x1C000#17 = .capext
    ∧ decodeCmd 0x1FFFF#17 = .capext
    ∧ decodeTableWord 24 0x18000 = some .capcsd ∧ decodeTableWord 24 0x20000 = none

/-- Every operation, every operand the 7-bit fields admit (30_encoding.md part 1). -/
def Obligations.DecodeEncodeRoundTrip : Prop :=
  ∀ i : Instr, i.wellFormed = true →
    decodeCmd (encode i) = i ∧ decodeTableWord 24 (encode i).toNat = some i

/-- Every command word: a SLICE comes back bit for bit; any other operation comes back with its don't-care bits 13:0 at 0
(30_encoding.md part 1). -/
def Obligations.EncodeDecodeKeepsReadBits : Prop :=
  ∀ c : Command, encode (decodeCmd c) = if c &&& 0x1C000#17 = 0#17 then c else c &&& 0x1C000#17

/-- The rule's sentence, with the opcode map's mask and match values. -/
def Obligations.OpFieldSelectsExactlyOneOperation : Prop :=
  ∀ c : Command,
    (∃ k < 8, c &&& 0x1C000#17 = BitVec.ofNat 17 (k * 2 ^ 14))
    ∧ (c &&& 0x1C000#17 = 0x00000#17 ↔ decodeCmd c = .slice (c.toNat / 2 ^ 7 % 2 ^ 7) (c.toNat % 2 ^ 7))
    ∧ (c &&& 0x1C000#17 = 0x04000#17 ↔ decodeCmd c = .cidsd)
    ∧ (c &&& 0x1C000#17 = 0x08000#17 ↔ decodeCmd c = .cidmmc)
    ∧ (c &&& 0x1C000#17 = 0x0C000#17 ↔ decodeCmd c = .csdmmc)
    ∧ (c &&& 0x1C000#17 = 0x10000#17 ↔ decodeCmd c = .csdsd10)
    ∧ (c &&& 0x1C000#17 = 0x14000#17 ↔ decodeCmd c = .csdsd20)
    ∧ (c &&& 0x1C000#17 = 0x18000#17 ↔ decodeCmd c = .capcsd)
    ∧ (c &&& 0x1C000#17 = 0x1C000#17 ↔ decodeCmd c = .capext)
    ∧ decodeBits c.toNat = .ok (decodeCmd c)

/-- Two commands with the same op, not 0, on the same inputs (30_encoding.md part 1). -/
def Obligations.DontCareBitsGiveSameResponse : Prop :=
  ∀ (s : State) (c d : Command), c &&& 0x1C000#17 = d &&& 0x1C000#17 → c &&& 0x1C000#17 ≠ 0#17 →
    ∃ r, step (s.driveCmd c) = .next { s with cmd := c, response := r }
      ∧ step (s.driveCmd d) = .next { s with cmd := d, response := r }

/-- The four words as one number, its bits, the words back from it, and the 128-bit concatenation. -/
def Obligations.StreamIsWordsInIndexOrder : Prop :=
  ∀ w : Words,
    stream (wordArray w) = w.w0.toNat + w.w1.toNat * 2 ^ 32 + w.w2.toNat * 2 ^ 64 + w.w3.toNat * 2 ^ 96
    ∧ stream (wordArray w) = (Spec.registerBits w).toNat
    ∧ (∀ b < 128, (stream (wordArray w)).testBit b = (wordAt (wordArray w) (b / 32)).getLsbD (b % 32))
    ∧ (∀ b < 32, (stream (wordArray w)).testBit b = w.w0.getLsbD b)
    ∧ (∀ b < 32, (stream (wordArray w)).testBit (32 + b) = w.w1.getLsbD b)
    ∧ (∀ b < 32, (stream (wordArray w)).testBit (64 + b) = w.w2.getLsbD b)
    ∧ (∀ b < 32, (stream (wordArray w)).testBit (96 + b) = w.w3.getLsbD b)

/-- The result of a SLICE that meets its precondition, every bit of R, and the frame: nothing but the outputs changes. -/
def Obligations.SliceReturnsStreamBits : Prop :=
  ∀ (s : State) (endBit startBit : Nat), startBit ≤ endBit → endBit - startBit < 32 → endBit < 128 →
    let S := s.w.w0.toNat + s.w.w1.toNat * 2 ^ 32 + s.w.w2.toNat * 2 ^ 64 + s.w.w3.toNat * 2 ^ 96
    ∃ v : Word, exec (.slice endBit startBit) s = .next { s with response := .slice v }
      ∧ v.toNat = S / 2 ^ startBit % 2 ^ (endBit - startBit + 1)
      ∧ (∀ i, i ≤ endBit - startBit → v.getLsbD i = S.testBit (startBit + i))
      ∧ (∀ i, endBit - startBit < i → v.getLsbD i = false)
      ∧ (Response.slice v).scalar = some { width := 32, value := v }
      ∧ (Response.slice v).faultBit = 0#1 ∧ (Response.slice v).causeBits = 0#2

/-- end < start is tested first (cause 1), then the span (cause 2); R and REC have no value; nothing else changes. That the fault is
a next state whose response is the fault, and not an outcome that stops the machine, is the MODEL's choice (log 5). -/
def Obligations.SliceViolationTakesFault : Prop :=
  ∀ (s : State) (endBit startBit : Nat), endBit < 128 → startBit < 128 →
    (endBit < startBit → exec (.slice endBit startBit) s = .next { s with response := .fault .endLtStart })
    ∧ (startBit ≤ endBit → 32 ≤ endBit - startBit →
        exec (.slice endBit startBit) s = .next { s with response := .fault .spanGe32 })
    ∧ (Response.fault .endLtStart).faultBit = 1#1 ∧ (Response.fault .endLtStart).causeBits = 1#2
    ∧ (Response.fault .spanGe32).faultBit = 1#1 ∧ (Response.fault .spanGe32).causeBits = 2#2
    ∧ ∀ c : Cause, (Response.fault c).scalar = none ∧ (Response.fault c).cidRecord = none
        ∧ (Response.fault c).csdRecord = none

/-- Over a words array of any length, so also over the four words of this hardware (40_slice.md, which marks the agreement as derived). -/
def Obligations.TwoPieceAlgorithmAgrees : Prop :=
  ∀ (ws : List Word) (endBit startBit : Nat), startBit ≤ endBit → endBit - startBit < 32 → endBit < 32 * ws.length →
    extractTwoPiece ws endBit startBit = extract ws endBit startBit

/-- 20_memory.md part 2: one-piece reads one word, two-piece two adjacent words. -/
def Obligations.SliceReadsAtMostTwoWords : Prop :=
  ∀ (s t : State) (endBit startBit : Nat), startBit ≤ endBit → endBit - startBit < 32 → endBit < 128 →
    wordAt (wordArray s.w) (startBit / 32) = wordAt (wordArray t.w) (startBit / 32) →
    wordAt (wordArray s.w) (endBit / 32) = wordAt (wordArray t.w) (endBit / 32) →
    endBit / 32 ≤ startBit / 32 + 1 ∧
      ∃ r, exec (.slice endBit startBit) s = .next { s with response := r }
        ∧ exec (.slice endBit startBit) t = .next { t with response := r }

/-- 40_slice.md's round-trip property, whose formula the spec marks as derived. -/
def Obligations.SlicePutsBitsBackInPlace : Prop :=
  ∀ (s : State) (endBit startBit : Nat), startBit ≤ endBit → endBit - startBit < 32 → endBit < 128 →
    let S := s.w.w0.toNat + s.w.w1.toNat * 2 ^ 32 + s.w.w2.toNat * 2 ^ 64 + s.w.w3.toNat * 2 ^ 96
    ∃ v : Word, exec (.slice endBit startBit) s = .next { s with response := .slice v }
      ∧ v.toNat * 2 ^ startBit = S &&& ((2 ^ (endBit - startBit + 1) - 1) * 2 ^ startBit)

/-- The converse of the round trip: the stream is the sum of f_i * 2^start_i over slices that do not overlap, each f_i fitting its
width; then the SLICE of every slice answers its f_i (40_slice.md's round-trip property, marked as derived). -/
def Obligations.PackedFieldsAreExtracted : Prop :=
  ∀ (s : State) (fields : List (FieldSlice × Nat)),
    slicesDisjoint (fields.map Prod.fst) = true →
    (∀ p ∈ fields, p.2 < 2 ^ p.1.width) →
    stream (wordArray s.w) = (fields.map fun p => p.2 * 2 ^ p.1.startBit).sum →
    ∀ p ∈ fields, exec (.slice p.1.endBit p.1.startBit) s = .next { s with response := .slice (BitVec.ofNat 32 p.2) }

/-- 95_test_vectors.md section 2.1, marked as derived there. -/
def Obligations.SlicesConcatenate : Prop :=
  ∀ (s : State) (endBit midBit startBit : Nat), startBit ≤ midBit → midBit < endBit → endBit - startBit < 32 →
    endBit < 128 →
    ∃ v low high : Word, exec (.slice endBit startBit) s = .next { s with response := .slice v }
      ∧ exec (.slice midBit startBit) s = .next { s with response := .slice low }
      ∧ exec (.slice endBit (midBit + 1)) s = .next { s with response := .slice high }
      ∧ v.toNat = low.toNat + high.toNat * 2 ^ (midBit - startBit + 1)

/-- DOC0's own example. -/
def Obligations.WorkedExampleAcrossBoundary : Prop :=
  ∀ s : State, s.w.w0 = 0xFFFFFFFF#32 → s.w.w1 = 0x00000001#32 → s.cmd = 0x0101F#17 →
    decodeCmd s.cmd = .slice 32 31 ∧ 31 / 32 = 0 ∧ 31 % 32 = 31 ∧ 32 / 32 = 1 ∧ 32 % 32 = 0 ∧ 2 ^ (0 + 1) - 1 = 1
    ∧ (s.w.w0 >>> 31) ||| ((s.w.w1 &&& 1#32) <<< 1) = 3#32
    ∧ extractTwoPiece (wordArray s.w) 32 31 = 3#32
    ∧ step s = .next { s with response := .slice 3#32 }

/-- 30_encoding.md part 1 and 95_test_vectors.md section 2.1, counted over all 16384 pairs (marked as derived there). -/
def Obligations.LegalSliceOperandCounts : Prop :=
  ((List.range 16384).filter fun n => decide (sliceCause 4 (n / 128) (n % 128) = none)).length = 3600
    ∧ ((List.range 16384).filter fun n => decide (sliceCause 4 (n / 128) (n % 128) = some .endLtStart)).length = 8128
    ∧ ((List.range 16384).filter fun n => decide (sliceCause 4 (n / 128) (n % 128) = some .spanGe32)).length = 4656

/-- The extractor generalised to an array of any length; cause 3 after the other two. -/
def Obligations.GenericExtractorTestsInOrder : Prop :=
  ∀ (ws : List Word) (endBit startBit : Nat),
    (endBit < startBit → sliceWords ws endBit startBit = .error .endLtStart)
    ∧ (startBit ≤ endBit → 32 ≤ endBit - startBit → sliceWords ws endBit startBit = .error .spanGe32)
    ∧ (startBit ≤ endBit → endBit - startBit < 32 → 32 * ws.length ≤ endBit →
        sliceWords ws endBit startBit = .error .indexRange)
    ∧ (startBit ≤ endBit → endBit - startBit < 32 → endBit < 32 * ws.length →
        sliceWords ws endBit startBit = .ok (extract ws endBit startBit))
    ∧ Cause.endLtStart.code = 1#2 ∧ Cause.spanGe32.code = 2#2 ∧ Cause.indexRange.code = 3#2

/-- The parameter STRICT at false: no fault, R is any value (it holds for every value of the free constant); a legal SLICE is as before
(40_slice.md; log 9). -/
def Obligations.UncheckedExtractorGivesSomeValue : Prop :=
  ∀ (cfg : Config) (s : State) (endBit startBit : Nat), cfg.strict = false →
    ∃ v : Word, sliceWith cfg endBit startBit s = .next { s with response := .slice v }
      ∧ (startBit ≤ endBit → endBit - startBit < 32 → endBit < 128 →
          v = extract (wordArray s.w) endBit startBit)

/-- Whole machine: which commands can set fault, and to which causes. That the fault is a next state is the model's choice (log 5). -/
def Obligations.OnlyIllegalSliceFaults : Prop :=
  ∀ s : State, ∃ r, step s = .next { s with response := r }
    ∧ (r.faultBit = 1#1 ↔ ∃ endBit startBit, decodeCmd s.cmd = .slice endBit startBit
        ∧ (endBit < startBit ∨ 32 ≤ endBit - startBit))
    ∧ (r.faultBit = 0#1 ↔ r.causeBits = 0#2) ∧ r.causeBits ≠ 3#2

/-- CIDSD: the SD CID record, port by port. Written out from the spec's pseudocode; the bit positions are the spec's own, from general
knowledge (log 8). -/
def Obligations.CidSdRecord : Prop :=
  ∀ s : State, exec .cidsd s = .next { s with response := .cidSd [
        (.mid, Spec.bits s.w 127 120), (.oid, Spec.bits s.w 119 104), (.pnm 0, Spec.bits s.w 103 96),
        (.pnm 1, Spec.bits s.w 95 88), (.pnm 2, Spec.bits s.w 87 80), (.pnm 3, Spec.bits s.w 79 72),
        (.pnm 4, Spec.bits s.w 71 64), (.prvN, Spec.bits s.w 63 60), (.prvM, Spec.bits s.w 59 56),
        (.psn, Spec.bits s.w 55 24),
        (.mdtY, { width := 16, value := BitVec.ofNat 16 (Spec.bitsNat s.w 19 12 + 2000) }),
        (.mdtM, Spec.bits s.w 11 8), (.crc, Spec.bits s.w 7 1)] }

/-- CIDMMC: the MMC CID record, port by port. Written out from the spec's pseudocode; the bit positions are the spec's own, from general
knowledge (log 8). -/
def Obligations.CidMmcRecord : Prop :=
  ∀ s : State, exec .cidmmc s = .next { s with response := .cidMmc [
        (.mid, Spec.bits s.w 127 120), (.oid, Spec.bits s.w 119 104), (.pnm 0, Spec.bits s.w 103 96),
        (.pnm 1, Spec.bits s.w 95 88), (.pnm 2, Spec.bits s.w 87 80), (.pnm 3, Spec.bits s.w 79 72),
        (.pnm 4, Spec.bits s.w 71 64), (.pnm 5, Spec.bits s.w 63 56), (.prvN, Spec.bits s.w 55 52),
        (.prvM, Spec.bits s.w 51 48), (.psn, Spec.bits s.w 47 16), (.mdtM, Spec.bits s.w 15 12),
        (.mdtY, { width := 16, value := BitVec.ofNat 16 (Spec.bitsNat s.w 11 8 + 1997) }), (.crc, Spec.bits s.w 7 1)] }

/-- CSDMMC: the MMC CSD record, port by port. Written out from the spec's pseudocode; the bit positions are the spec's own, from general
knowledge (log 8). -/
def Obligations.CsdMmcRecord : Prop :=
  ∀ s : State, exec .csdmmc s = .next { s with response := .csdMmc [
        (.csdStructure, Spec.bits s.w 127 126), (.specVers, Spec.bits s.w 125 122), (.taac, Spec.bits s.w 119 112),
        (.nsac, Spec.bits s.w 111 104), (.tranSpeed, Spec.bits s.w 103 96), (.ccc, Spec.bits s.w 95 84),
        (.readBlLen, Spec.bits s.w 83 80), (.readBlPartial, Spec.bits s.w 79 79),
        (.writeBlkMisalign, Spec.bits s.w 78 78), (.readBlkMisalign, Spec.bits s.w 77 77),
        (.dsrImp, Spec.bits s.w 76 76), (.cSize, Spec.bits s.w 73 62), (.vddRCurrMin, Spec.bits s.w 61 59),
        (.vddRCurrMax, Spec.bits s.w 58 56), (.vddWCurrMin, Spec.bits s.w 55 53),
        (.vddWCurrMax, Spec.bits s.w 52 50), (.cSizeMult, Spec.bits s.w 49 47), (.eraseGrpSize, Spec.bits s.w 46 42),
        (.eraseGrpMult, Spec.bits s.w 41 37), (.wpGrpSize, Spec.bits s.w 36 32), (.wpGrpEnable, Spec.bits s.w 31 31),
        (.defaultEcc, Spec.bits s.w 30 29), (.r2wFactor, Spec.bits s.w 28 26), (.writeBlLen, Spec.bits s.w 25 22),
        (.writeBlPartial, Spec.bits s.w 21 21), (.contentProtApp, Spec.bits s.w 16 16),
        (.fileFormatGrp, Spec.bits s.w 15 15), (.copy, Spec.bits s.w 14 14),
        (.permWriteProtect, Spec.bits s.w 13 13), (.tmpWriteProtect, Spec.bits s.w 12 12),
        (.fileFormat, Spec.bits s.w 11 10), (.ecc, Spec.bits s.w 9 8), (.crc, Spec.bits s.w 7 1)] }

/-- CSDSD10: the SD CSD 1.0 record, port by port. Written out from the spec's pseudocode; the bit positions are the spec's own, from general
knowledge (log 8). -/
def Obligations.CsdSd10Record : Prop :=
  ∀ s : State, exec .csdsd10 s = .next { s with response := .csdSd10 [
        (.csdStructure, Spec.bits s.w 127 126), (.taac, Spec.bits s.w 119 112), (.nsac, Spec.bits s.w 111 104),
        (.tranSpeed, Spec.bits s.w 103 96), (.ccc, Spec.bits s.w 95 84), (.readBlLen, Spec.bits s.w 83 80),
        (.readBlPartial, Spec.bits s.w 79 79), (.writeBlkMisalign, Spec.bits s.w 78 78),
        (.readBlkMisalign, Spec.bits s.w 77 77), (.dsrImp, Spec.bits s.w 76 76), (.cSize, Spec.bits s.w 73 62),
        (.vddRCurrMin, Spec.bits s.w 61 59), (.vddRCurrMax, Spec.bits s.w 58 56),
        (.vddWCurrMin, Spec.bits s.w 55 53), (.vddWCurrMax, Spec.bits s.w 52 50), (.cSizeMult, Spec.bits s.w 49 47),
        (.eraseBlkEn, Spec.bits s.w 46 46), (.eraseSectorSize, Spec.bits s.w 45 39),
        (.wpGrpSize, Spec.bits s.w 38 32), (.wpGrpEnable, Spec.bits s.w 31 31), (.r2wFactor, Spec.bits s.w 28 26),
        (.writeBlLen, Spec.bits s.w 25 22), (.writeBlPartial, Spec.bits s.w 21 21),
        (.fileFormatGrp, Spec.bits s.w 15 15), (.copy, Spec.bits s.w 14 14),
        (.permWriteProtect, Spec.bits s.w 13 13), (.tmpWriteProtect, Spec.bits s.w 12 12),
        (.fileFormat, Spec.bits s.w 11 10), (.crc, Spec.bits s.w 7 1)] }

/-- CSDSD20: the SD CSD 2.0 record, port by port. Written out from the spec's pseudocode; the bit positions are the spec's own, from general
knowledge (log 8). -/
def Obligations.CsdSd20Record : Prop :=
  ∀ s : State, exec .csdsd20 s = .next { s with response := .csdSd20 [
        (.csdStructure, Spec.bits s.w 127 126), (.taac, Spec.bits s.w 119 112), (.nsac, Spec.bits s.w 111 104),
        (.tranSpeed, Spec.bits s.w 103 96), (.ccc, Spec.bits s.w 95 84), (.readBlLen, Spec.bits s.w 83 80),
        (.readBlPartial, Spec.bits s.w 79 79), (.writeBlkMisalign, Spec.bits s.w 78 78),
        (.readBlkMisalign, Spec.bits s.w 77 77), (.dsrImp, Spec.bits s.w 76 76), (.cSize, Spec.bits s.w 69 48),
        (.eraseBlkEn, Spec.bits s.w 46 46), (.eraseSectorSize, Spec.bits s.w 45 39),
        (.wpGrpSize, Spec.bits s.w 38 32), (.wpGrpEnable, Spec.bits s.w 31 31), (.r2wFactor, Spec.bits s.w 28 26),
        (.writeBlLen, Spec.bits s.w 25 22), (.writeBlPartial, Spec.bits s.w 21 21),
        (.fileFormatGrp, Spec.bits s.w 15 15), (.copy, Spec.bits s.w 14 14),
        (.permWriteProtect, Spec.bits s.w 13 13), (.tmpWriteProtect, Spec.bits s.w 12 12),
        (.fileFormat, Spec.bits s.w 11 10), (.crc, Spec.bits s.w 7 1)] }

/-- Both families, for the rows PNM<k> of their tables: the port is 8 bits wide and holds the value of that row's slice
(41_cid.md, The two transforms). -/
def Obligations.ProductNameIsReversed : Prop :=
  ∀ s : State, ∃ sd mmc : CidRecord,
    exec .cidsd s = .next { s with response := .cidSd sd } ∧ exec .cidmmc s = .next { s with response := .cidMmc mmc }
    ∧ (∀ k < 5, ∃ f, fieldSlice config.tables (.cidSd (.pnm k)) = some f ∧
        ∃ c : Byte, sd.lookup (.pnm (5 - 1 - k)) = some { width := 8, value := c }
          ∧ exec (.slice f.endBit f.startBit) s = .next { s with response := .slice (c.setWidth 32) })
    ∧ (∀ k < 6, ∃ f, fieldSlice config.tables (.cidMmc (.pnm k)) = some f ∧
        ∃ c : Byte, mmc.lookup (.pnm (6 - 1 - k)) = some { width := 8, value := c }
          ∧ exec (.slice f.endBit f.startBit) s = .next { s with response := .slice (c.setWidth 32) })
    ∧ (∀ i, 5 ≤ i → sd.lookup (.pnm i) = none) ∧ (∀ i, 6 ≤ i → mmc.lookup (.pnm i) = none)

/-- The raw year is what FIELD <layout>.MDT_Y gives. The ranges are derived in the spec (41_cid.md, The two transforms). -/
def Obligations.YearIsBiasedByEpoch : Prop :=
  ∀ s : State, ∃ sd mmc : CidRecord, ∃ ysd ymmc : BitVec 16, ∃ fsd fmmc : FieldSlice,
    exec .cidsd s = .next { s with response := .cidSd sd } ∧ exec .cidmmc s = .next { s with response := .cidMmc mmc }
    ∧ sd.lookup .mdtY = some { width := 16, value := ysd } ∧ mmc.lookup .mdtY = some { width := 16, value := ymmc }
    ∧ expandField (.cidSd .mdtY) = some (.slice fsd.endBit fsd.startBit)
    ∧ expandField (.cidMmc .mdtY) = some (.slice fmmc.endBit fmmc.startBit)
    ∧ ysd.toNat = (sliceValue (wordArray s.w) fsd).toNat + 2000
    ∧ ymmc.toNat = (sliceValue (wordArray s.w) fmmc).toNat + 1997
    ∧ ysd.toNat ≤ 2255 ∧ ymmc.toNat ≤ 2012

/-- The masks are the bits the spec lists under each layout as covered by no row (30_encoding.md part 3; log 8). -/
def Obligations.DecodersIgnoreUncoveredBits : Prop :=
  ∀ s t : State,
    (Spec.agreeOn (~~~0x00000000000000000000000000F00001#128) s.w t.w →
      ∃ r, exec .cidsd s = .next { s with response := r } ∧ exec .cidsd t = .next { t with response := r })
    ∧ (Spec.agreeOn (~~~0x00000000000000000000000000000001#128) s.w t.w →
      ∃ r, exec .cidmmc s = .next { s with response := r } ∧ exec .cidmmc t = .next { t with response := r })
    ∧ (Spec.agreeOn (~~~0x0300000000000C0000000000001E0001#128) s.w t.w →
      ∃ r, exec .csdmmc s = .next { s with response := r } ∧ exec .csdmmc t = .next { t with response := r })
    ∧ (Spec.agreeOn (~~~0x3F00000000000C0000000000601F0301#128) s.w t.w →
      ∃ r, exec .csdsd10 s = .next { s with response := r } ∧ exec .csdsd10 t = .next { t with response := r })
    ∧ (Spec.agreeOn (~~~0x3F00000000000FC000008000601F0301#128) s.w t.w →
      ∃ r, exec .csdsd20 s = .next { s with response := r } ∧ exec .csdsd20 t = .next { t with response := r })

/-- For every row that goes to a port of its own name, in all five layouts: the decoder's port holds what FIELD of that row answers on
the same words (30_encoding.md part 4, which marks it as derived). -/
def Obligations.DecoderPortsEqualFieldSlices : Prop :=
  ∀ (s : State) (i : Instr),
    (∀ p, expandField (.cidSd (.port p)) = some i → ∃ rec port v, exec .cidsd s = .next { s with response := .cidSd rec }
      ∧ exec i s = .next { s with response := .slice v } ∧ rec.lookup p = some port ∧ port.value.toNat = v.toNat)
    ∧ (∀ p, expandField (.cidMmc (.port p)) = some i → ∃ rec port v,
      exec .cidmmc s = .next { s with response := .cidMmc rec }
      ∧ exec i s = .next { s with response := .slice v } ∧ rec.lookup p = some port ∧ port.value.toNat = v.toNat)
    ∧ (∀ p, expandField (.csdMmc p) = some i → ∃ rec port v, exec .csdmmc s = .next { s with response := .csdMmc rec }
      ∧ exec i s = .next { s with response := .slice v } ∧ rec.lookup p = some port ∧ port.value.toNat = v.toNat)
    ∧ (∀ p, expandField (.csdSd10 p) = some i → ∃ rec port v, exec .csdsd10 s = .next { s with response := .csdSd10 rec }
      ∧ exec i s = .next { s with response := .slice v } ∧ rec.lookup p = some port ∧ port.value.toNat = v.toNat)
    ∧ (∀ p, expandField (.csdSd20 p) = some i → ∃ rec port v, exec .csdsd20 s = .next { s with response := .csdSd20 rec }
      ∧ exec i s = .next { s with response := .slice v } ∧ rec.lookup p = some port ∧ port.value.toNat = v.toNat)

/-- 30_encoding.md part 4, which marks it as derived; with the spec's five example words. -/
def Obligations.FieldExpansionNeverFaults : Prop :=
  (∀ (f : FieldRef) (i : Instr) (s : State), expandField f = some i →
      i.wellFormed = true ∧ ∃ v, exec i s = .next { s with response := .slice v })
    ∧ (expandField (.csdSd10 .cSize)).map encode = some 0x024BE#17
    ∧ (expandField (.csdSd20 .cSize)).map encode = some 0x022B0#17
    ∧ (expandField (.cidSd (.port .psn))).map encode = some 0x01B98#17
    ∧ (expandField (.cidMmc (.pnm 0))).map encode = some 0x01FB8#17
    ∧ (expandField (.csdMmc .csdStructure)).map encode = some 0x03FFE#17

/-- 30_encoding.md R75's properties a, b, c, e, which the spec marks as derived and says a model may check by evaluation. The first clause
holds also that no row name repeats, and that every PNM<k> row is 8 bits wide with k below the name's length. -/
def Obligations.TablesMeetTheirStatedProperties : Prop :=
  config.tables.wellFormed pnmLenSd pnmLenMmc = true
    ∧ (∀ f ∈ config.tables.cidSd.map CidRow.slice ++ config.tables.cidMmc.map CidRow.slice
        ++ config.tables.csdSd10.map CsdRow.slice ++ config.tables.csdSd20.map CsdRow.slice
        ++ config.tables.csdMmc.map CsdRow.slice,
        f.startBit ≤ f.endBit ∧ f.endBit - f.startBit ≤ 31 ∧ f.endBit ≤ 127 ∧ 1 ≤ f.width ∧ f.width ≤ 32)
    ∧ config.tables.cidSd.length = 13 ∧ config.tables.cidMmc.length = 14 ∧ config.tables.csdSd10.length = 29
    ∧ config.tables.csdSd20.length = 24 ∧ config.tables.csdMmc.length = 33
    ∧ (config.tables.cidSd.filter fun r => decide (r.slice.startBit / 32 ≠ r.slice.endBit / 32)).map CidRow.name
        = [.port .psn]
    ∧ (config.tables.cidMmc.filter fun r => decide (r.slice.startBit / 32 ≠ r.slice.endBit / 32)).map CidRow.name
        = [.port .psn]
    ∧ ∀ t ∈ [config.tables.csdSd10, config.tables.csdSd20, config.tables.csdMmc],
        (t.filter fun r => decide (r.slice.startBit / 32 ≠ r.slice.endBit / 32)).map CsdRow.port = [.cSize]

/-- The twenty rows that lie alike in all three CSD tables, csd_structure among them (30_encoding.md part 3, 42_csd.md Properties common
to the three; marked as derived). -/
def Obligations.SharedCsdPortsAgree : Prop :=
  ∀ s : State, ∃ mmc sd10 sd20 : CsdRecord,
    exec .csdmmc s = .next { s with response := .csdMmc mmc }
    ∧ exec .csdsd10 s = .next { s with response := .csdSd10 sd10 }
    ∧ exec .csdsd20 s = .next { s with response := .csdSd20 sd20 }
    ∧ ∀ p ∈ [CsdPort.csdStructure, .taac, .nsac, .tranSpeed, .ccc, .readBlLen, .readBlPartial, .writeBlkMisalign,
        .readBlkMisalign, .dsrImp, .wpGrpEnable, .r2wFactor, .writeBlLen, .writeBlPartial, .fileFormatGrp, .copy,
        .permWriteProtect, .tmpWriteProtect, .fileFormat, .crc],
      ∃ v, mmc.lookup p = some v ∧ sd10.lookup p = some v ∧ sd20.lookup p = some v

/-- The whole pseudocode. The bit positions are the spec's own (log 8). -/
def Obligations.CapCsdBlocks : Prop :=
  ∀ s : State, exec .capcsd s = .next { s with response := .blocks { width := 32, value := BitVec.ofNat 32 (
      if Spec.bitsNat s.w 127 126 = 0 then
        if 9 ≤ Spec.bitsNat s.w 83 80 then
          (Spec.bitsNat s.w 73 62 + 1) * 2 ^ (Spec.bitsNat s.w 49 47 + 2) * 2 ^ (Spec.bitsNat s.w 83 80 - 9)
        else 0
      else if Spec.bitsNat s.w 127 126 = 1 then 1024 * (Spec.bitsNat s.w 69 48 + 1)
      else 0) } }

/-- The version is whatever the structure-version slice of the table holds. -/
def Obligations.CapCsdReservedVersionGivesZero : Prop :=
  ∀ s : State, (sliceValue (wordArray s.w) config.tables.capacity.csdStructure = 2#32
      ∨ sliceValue (wordArray s.w) config.tables.capacity.csdStructure = 3#32) →
    exec .capcsd s = .next { s with response := .blocks { width := 32, value := 0#32 } }
    ∧ (Response.blocks { width := 32, value := 0#32 }).faultBit = 0#1
    ∧ (Response.blocks { width := 32, value := 0#32 }).causeBits = 0#2

/-- 43_capacity.md CAPCSD; the range is marked as derived there. The bit positions are the spec's own, from general knowledge (log 8). -/
def Obligations.CapCsdVersion0IsExact : Prop :=
  ∀ s : State, Spec.bitsNat s.w 127 126 = 0 → 9 ≤ Spec.bitsNat s.w 83 80 →
    ∃ n : Word, exec .capcsd s = .next { s with response := .blocks { width := 32, value := n } }
      ∧ n.toNat = (Spec.bitsNat s.w 73 62 + 1) * 2 ^ (Spec.bitsNat s.w 49 47 + 2) * 2 ^ (Spec.bitsNat s.w 83 80 - 9)
      ∧ 4 ≤ n.toNat ∧ n.toNat ≤ 2 ^ 27

/-- 43_capacity.md CAPCSD: the default CAP_WIDTH = 32 wraps at one value; CAP_WIDTH >= 33 never does (decision D7). The bit
positions are the spec's own, from general knowledge (log 8). -/
def Obligations.CapCsdVersion1WrapsOnlyAtTheTop : Prop :=
  ∀ s : State, Spec.bitsNat s.w 127 126 = 1 →
    (∃ n : Word, exec .capcsd s = .next { s with response := .blocks { width := 32, value := n } }
      ∧ (Spec.bitsNat s.w 69 48 ≠ 0x3FFFFF → n.toNat = 1024 * (Spec.bitsNat s.w 69 48 + 1))
      ∧ (Spec.bitsNat s.w 69 48 = 0x3FFFFF → n = 0#32))
    ∧ ∀ cfg : Config, cfg.tables = config.tables → 33 ≤ cfg.capWidth →
        ∃ n : BitVec cfg.capWidth, capCsdWith cfg s = .next { s with response := .blocks { width := cfg.capWidth, value := n } }
          ∧ n.toNat = 1024 * (Spec.bitsNat s.w 69 48 + 1)

/-- 70_reset_and_hazards.md part 3. The bit positions are the spec's own, from general knowledge (log 8). -/
def Obligations.CapCsdZeroHasThreeCauses : Prop :=
  ∀ s : State, ∃ n : Word, exec .capcsd s = .next { s with response := .blocks { width := 32, value := n } }
      ∧ (n = 0#32 ↔ 2 ≤ Spec.bitsNat s.w 127 126
        ∨ (Spec.bitsNat s.w 127 126 = 0 ∧ Spec.bitsNat s.w 83 80 < 9)
        ∨ (Spec.bitsNat s.w 127 126 = 1 ∧ Spec.bitsNat s.w 69 48 = 0x3FFFFF))

/-- 43_capacity.md CAPCSD (decision D8; log 10). It holds for every value of the free constant. The bit positions are the spec's own, from
general knowledge (log 8). -/
def Obligations.CapCsdShortBlockLengthParameter : Prop :=
  ∀ s : State, Spec.bitsNat s.w 127 126 = 0 → Spec.bitsNat s.w 83 80 < 9 →
    exec .capcsd s = .next { s with response := .blocks { width := 32, value := 0#32 } }
    ∧ capCsdWith { config with rblLt9 := .any } s
        = .next { s with response := .blocks { width := 32, value := Config.shortBlockCapacity s.w } }

/-- 43_capacity.md Arithmetic laws and corner cases (marked as derived; log 8). -/
def Obligations.CapCsdReadsOnlyItsFields : Prop :=
  ∀ s t : State, Spec.bitsNat s.w 127 126 = Spec.bitsNat t.w 127 126 →
    (Spec.bitsNat s.w 127 126 = 0 → Spec.bitsNat s.w 83 80 = Spec.bitsNat t.w 83 80
      ∧ Spec.bitsNat s.w 73 62 = Spec.bitsNat t.w 73 62 ∧ Spec.bitsNat s.w 49 47 = Spec.bitsNat t.w 49 47) →
    (Spec.bitsNat s.w 127 126 = 1 → Spec.bitsNat s.w 69 48 = Spec.bitsNat t.w 69 48) →
    ∃ r, exec .capcsd s = .next { s with response := r } ∧ exec .capcsd t = .next { t with response := r }

/-- 43_capacity.md R158's last sentence, marked as derived; the case read_bl_len < 9 is R154's sentinel. -/
def Obligations.CapCsdAgreesWithDecoders : Prop :=
  ∀ s : State, ∃ (sd10 sd20 : CsdRecord) (version : BitVec 2) (cSize : BitVec 12) (mult : BitVec 3) (len : BitVec 4)
      (cSize20 : BitVec 22) (n : Word),
    exec .csdsd10 s = .next { s with response := .csdSd10 sd10 }
    ∧ exec .csdsd20 s = .next { s with response := .csdSd20 sd20 }
    ∧ exec .capcsd s = .next { s with response := .blocks { width := 32, value := n } }
    ∧ sd10.lookup .csdStructure = some { width := 2, value := version }
    ∧ sd10.lookup .cSize = some { width := 12, value := cSize }
    ∧ sd10.lookup .cSizeMult = some { width := 3, value := mult }
    ∧ sd10.lookup .readBlLen = some { width := 4, value := len }
    ∧ sd20.lookup .cSize = some { width := 22, value := cSize20 }
    ∧ (version = 0#2 → 9 ≤ len.toNat → n.toNat = (cSize.toNat + 1) * 2 ^ (mult.toNat + 2) * 2 ^ (len.toNat - 9))
    ∧ (version = 0#2 → len.toNat < 9 → n = 0#32)
    ∧ (version = 1#2 → n.toNat = 1024 * (cSize20.toNat + 1) % 2 ^ 32)

/-- The result and its four bytes, the 33-bit case, and the spec's example. -/
def Obligations.CapExtSectorCount : Prop :=
  (∀ s : State, ∃ n : Word, exec .capext s = .next { s with response := .blocks { width := 32, value := n } }
      ∧ n.toNat = (s.x.read 212).toNat + (s.x.read 213).toNat * 2 ^ 8 + (s.x.read 214).toNat * 2 ^ 16
          + (s.x.read 215).toNat * 2 ^ 24
      ∧ n.extractLsb' 0 8 = s.x.read 212 ∧ n.extractLsb' 8 8 = s.x.read 213
      ∧ n.extractLsb' 16 8 = s.x.read 214 ∧ n.extractLsb' 24 8 = s.x.read 215
      ∧ (Response.blocks { width := 32, value := n }).faultBit = 0#1
      ∧ (Response.blocks { width := 32, value := n }).causeBits = 0#2
      ∧ capExtWith { config with capWidth := 33 } s
          = .next { s with response := .blocks { width := 33, value := n.setWidth 33 } })
    ∧ (∀ s : State, s.x.read 212 = 0x00#8 → s.x.read 213 = 0x00#8 → s.x.read 214 = 0xE9#8 → s.x.read 215 = 0x00#8 →
        exec .capext s = .next { s with response := .blocks { width := 32, value := 15269888#32 } })
    ∧ decodeCmd 0x1C000#17 = .capext ∧ encode .capext = 0x1C000#17

/-- Neither address space is reachable from the operations of the other (20_memory.md parts 2 and 3, 95_test_vectors.md section 2.4). -/
def Obligations.ReadsOfTheTwoSpaces : Prop :=
  ∀ s t : State,
    ((∀ a, 212 ≤ a → a ≤ 215 → s.x.read a = t.x.read a) →
      ∃ r, exec .capext s = .next { s with response := r } ∧ exec .capext t = .next { t with response := r })
    ∧ ∀ i : Instr, i ≠ .capext → s.w = t.w →
        ∃ r, exec i s = .next { s with response := r } ∧ exec i t = .next { t with response := r }

/-- The spec gives no reset value; the inputs at 0 and X with nothing listed are the MODEL's choice (logs 2 and 4). The outputs are then
what 70_reset_and_hazards.md part 1 says of any moment (log 3). -/
def Obligations.ResetStateAnswersItsInputs : Prop :=
  respond State.reset.request = some State.reset.response
    ∧ step State.reset = .next State.reset
    ∧ State.reset.cmd = 0#17 ∧ (Spec.registerBits State.reset.w) = 0#128
    ∧ (∀ a, State.reset.x.read a = 0#8) ∧ State.reset.response = .slice 0#32

/-- The reset values are the model's choice (logs 2, 3, 4). -/
def Obligations.ResetStateMeetsInvariant : Prop :=
  State.reset.Inv

/-- From every state with a canonical X, whatever its outputs are: the step itself puts the response on them, so the invariant is kept, and
is reached where it did not hold. Ports and widths are 10_state.md part 3's, that the outputs are the
function of the present inputs is part 5's; that X has a canonical form is the model's own. -/
def Obligations.StepKeepsOutputShape : Prop :=
  ∀ s t : State, s.x.wf = true → step s = .next t → t.Inv

/-- No hidden state: whatever ran before, and whatever the outputs were (10_state.md parts 1 and 4). -/
def Obligations.ResponseDependsOnRequestOnly : Prop :=
  ∀ s t : State, s.request = t.request →
    ∃ r, respond s.request = some r
      ∧ step s = .next { s with response := r } ∧ step t = .next { t with response := r }

/-- Any list of requests, from any state: every request is answered, each as if it were the only one (10_state.md part 1,
30_encoding.md part 4). That a request whose SLICE faults is answered by a next state too is the MODEL's choice (log 5). -/
def Obligations.ProgramIsListOfIndependentResponses : Prop :=
  ∀ (s : State) (qs : List Request), ∃ rs : List Response,
    runProgram s qs = some rs ∧ qs.map respond = rs.map some

/-- Two orders of the same requests, from any two states, pair the same requests with the same responses (10_state.md part 3). -/
def Obligations.ProgramOrderIsIrrelevant : Prop :=
  ∀ (s t : State) (ps qs : List Request), ps.Perm qs → ∃ rs us : List Response,
    runProgram s ps = some rs ∧ runProgram t qs = some us ∧ (ps.zip rs).Perm (qs.zip us)

/-- Faults do not stick: each response depends on its own request (60_exceptions.md part 3, 70_reset_and_hazards.md part 3). -/
def Obligations.RunIsSafeExactlyForLegalRequests : Prop :=
  ∀ (s : State) (qs : List Request), runSafe s qs ↔ ∀ q ∈ qs, instrLegal (decodeCmd q.cmd)

/-- The environment's write to the 512-byte space: canonical form is kept, the outputs follow (10_state.md part 5), an address outside the space faults in the model (log 11). -/
def Obligations.DrivenByteReadsBack : Prop :=
  ∀ (s : State) (addr : Nat) (v : Byte), s.x.wf = true →
    (addr < 512 → ∃ t, s.driveX addr v = .ok t ∧ t.x.wf = true ∧ t.x.read addr = v
      ∧ (∀ a, a ≠ addr → t.x.read a = s.x.read a) ∧ t.cmd = s.cmd ∧ t.w = s.w ∧ respond t.request = some t.response)
    ∧ (512 ≤ addr → s.driveX addr v = .error (.extAddress addr))
    ∧ (∀ n, addr + n ≤ 512 → ∃ k, memRead s.x addr n = .ok k)
    ∧ (∀ n, 512 < addr + n → memRead s.x addr n = .error (.extAddress addr))

/-- The canonical form is the model's own representation of the 512-byte space (log 4). -/
def Obligations.EqualBytesAreEqualMemories : Prop :=
  ∀ m k : Memory, m.wf = true → k.wf = true → (∀ a < 512, m.read a = k.read a) → m = k

/-- Every well-formed instruction, in the text syntax of 30_encoding.md part 4. -/
def Obligations.AssemblerReadsPrintedText : Prop :=
  ∀ i : Instr, i.wellFormed = true →
    parseLine (printInstr i) = some i ∧ assembleLine (printInstr i) = some (encode i)
    ∧ assembleLine (disassemble (encode i)) = some (encode i)

/-- At every moment the outputs are the function of the present inputs (10_state.md part 5, 70_reset_and_hazards.md part 1), whatever they
were before. -/
def Obligations.OutputsFollowPresentedInputs : Prop :=
  ∀ (s : State) (q : Request), ∃ r, respond q = some r
      ∧ s.present q = { cmd := q.cmd, w := q.w, x := q.x, response := r }
      ∧ step (s.present q) = .next (s.present q)

/-- The same invariant as for the step, from every state with a canonical X, whatever its outputs are: no stale output is ever seen (10_state.md part 5, 70_reset_and_hazards.md part 1). That X has a
canonical form is the model's own (log 4). -/
def Obligations.EnvironmentKeepsInvariant : Prop :=
  ∀ s : State, s.x.wf = true →
    (∀ c, (s.driveCmd c).Inv ∧ (s.driveCmd c).cmd = c ∧ (s.driveCmd c).w = s.w ∧ (s.driveCmd c).x = s.x)
    ∧ (∀ w, (s.driveWords w).Inv ∧ (s.driveWords w).cmd = s.cmd ∧ (s.driveWords w).w = w ∧ (s.driveWords w).x = s.x)
    ∧ (∀ addr v t, s.driveX addr v = .ok t → t.Inv ∧ t.cmd = s.cmd ∧ t.w = s.w)
    ∧ (∀ n w, (s.withFetchWord n w).Inv)
    ∧ (∀ q : Request, q.x.wf = true → (s.present q).Inv)
end

