-- ==== Sys2Proof/Laws/Memory.lean ====
section
/-!
SUPPORT. The Extended CSD space: a write keeps the canonical form, is read back, and leaves every other byte alone.
-/

namespace Sys2Proof.Machine

/-- What a listed head entry of a canonical memory satisfies. -/
theorem Memory.wfFrom_cons (low a : Nat) (b : Byte) (m : Memory) :
    Memory.wfFrom low ((a, b) :: m) = true ↔
      low ≤ a ∧ a < extLen ∧ b ≠ Memory.unlisted ∧ Memory.wfFrom (a + 1) m = true := by
  simp [Memory.wfFrom, and_assoc]

/-- A canonical memory from a bound is canonical from every lower bound. -/
theorem Memory.wfFrom_mono {low low' : Nat} (hl : low' ≤ low) {m : Memory} (h : Memory.wfFrom low m = true) :
    Memory.wfFrom low' m = true := by
  cases m with
  | nil => rfl
  | cons e m =>
    obtain ⟨a, b⟩ := e
    rw [Memory.wfFrom_cons] at h ⊢
    exact ⟨hl.trans h.1, h.2⟩

/-- An address below every listed one reads as unlisted. -/
theorem Memory.read_of_lt {low addr : Nat} (hlt : addr < low) {m : Memory} (h : Memory.wfFrom low m = true) :
    m.read addr = Memory.unlisted := by
  induction m generalizing low with
  | nil => rfl
  | cons e m ih =>
    obtain ⟨a, b⟩ := e
    rw [Memory.wfFrom_cons] at h
    have hne : a ≠ addr := by omega
    rw [Memory.read, if_neg hne]
    exact ih (by omega) h.2.2.2

/-- A write inside the space keeps the canonical form, from any bound that the address meets. -/
theorem Memory.wfFrom_write {low addr : Nat} (v : Byte) (ha : low ≤ addr) (hx : addr < extLen) {m : Memory}
    (h : Memory.wfFrom low m = true) : Memory.wfFrom low (m.write addr v) = true := by
  induction m generalizing low with
  | nil =>
    by_cases hv : v = Memory.unlisted
    · simp [Memory.write, hv, Memory.wfFrom]
    · rw [Memory.write, if_neg hv, Memory.wfFrom_cons]
      exact ⟨ha, hx, hv, rfl⟩
  | cons e m ih =>
    obtain ⟨a, b⟩ := e
    have hc := (Memory.wfFrom_cons low a b m).mp h
    rw [Memory.write]
    split
    · next hlt =>
      split
      · exact h
      · next hv =>
        rw [Memory.wfFrom_cons, Memory.wfFrom_cons]
        exact ⟨ha, hx, hv, hlt, hc.2⟩
    · next hge =>
      split
      · next heq =>
        subst heq
        split
        · exact Memory.wfFrom_mono (by omega) hc.2.2.2
        · next hv =>
          rw [Memory.wfFrom_cons]
          exact ⟨ha, hx, hv, hc.2.2.2⟩
      · next hne =>
        rw [Memory.wfFrom_cons]
        exact ⟨hc.1, hc.2.1, hc.2.2.1, ih (by omega) hc.2.2.2⟩

/-- THE MEMORY LAW: a write inside the space keeps the canonical form. -/
theorem Memory.wf_write (m : Memory) (addr : Nat) (v : Byte) (hx : addr < extLen) (h : m.wf = true) :
    (m.write addr v).wf = true :=
  Memory.wfFrom_write v (Nat.zero_le addr) hx h

/-- A write is read back. -/
theorem Memory.read_write_same {low : Nat} (m : Memory) (addr : Nat) (v : Byte) (h : Memory.wfFrom low m = true) :
    (m.write addr v).read addr = v := by
  induction m generalizing low with
  | nil =>
    by_cases hv : v = Memory.unlisted
    · simp [Memory.write, Memory.read, hv]
    · simp [Memory.write, Memory.read, hv]
  | cons e m ih =>
    obtain ⟨a, b⟩ := e
    have hc := (Memory.wfFrom_cons low a b m).mp h
    rw [Memory.write]
    split
    · next hlt =>
      split
      · next hv => rw [hv, Memory.read, if_neg (by omega), Memory.read_of_lt (by omega) hc.2.2.2]
      · simp [Memory.read]
    · split
      · next heq =>
        subst heq
        split
        · next hv => rw [hv, Memory.read_of_lt (by omega) hc.2.2.2]
        · simp [Memory.read]
      · next hne =>
        rw [Memory.read, if_neg hne]
        exact ih hc.2.2.2

/-- A write leaves every other byte alone. -/
theorem Memory.read_write_other (m : Memory) {addr other : Nat} (v : Byte) (hne : other ≠ addr) :
    (m.write addr v).read other = m.read other := by
  induction m with
  | nil =>
    by_cases hv : v = Memory.unlisted
    · simp [Memory.write, hv]
    · simp [Memory.write, Memory.read, hv, Ne.symm hne]
  | cons e m ih =>
    obtain ⟨a, b⟩ := e
    rw [Memory.write]
    split
    · split
      · rfl
      · simp [Memory.read, Ne.symm hne]
    · split
      · next heq =>
        subst heq
        split <;> simp [Memory.read, Ne.symm hne]
      · simp only [Memory.read, ih]

/-- The memory after reset is canonical. -/
theorem State.reset_memory_wf : State.reset.x.wf = true := rfl

end Sys2Proof.Machine
end

