-- ==== Sys2Proof/Laws/State.lean ====
section
/-!
SUPPORT. One lemma per field per update of State, so that no later proof unfolds a record update; and the output ports of each
shape of response.
-/

namespace Sys2Proof.Machine

@[simp] theorem State.answer_cmd (s : State) (r : Response) : (s.answer r).cmd = s.cmd := rfl
@[simp] theorem State.answer_w (s : State) (r : Response) : (s.answer r).w = s.w := rfl
@[simp] theorem State.answer_x (s : State) (r : Response) : (s.answer r).x = s.x := rfl
@[simp] theorem State.answer_response (s : State) (r : Response) : (s.answer r).response = r := rfl
@[simp] theorem State.answer_request (s : State) (r : Response) : (s.answer r).request = s.request := rfl
@[simp] theorem State.answer_answer (s : State) (r t : Response) : (s.answer r).answer t = s.answer t := rfl

@[simp] theorem State.raiseFault_cmd (s : State) (c : Cause) : (s.raiseFault c).cmd = s.cmd := rfl
@[simp] theorem State.raiseFault_w (s : State) (c : Cause) : (s.raiseFault c).w = s.w := rfl
@[simp] theorem State.raiseFault_x (s : State) (c : Cause) : (s.raiseFault c).x = s.x := rfl
@[simp] theorem State.raiseFault_response (s : State) (c : Cause) : (s.raiseFault c).response = .fault c := rfl

@[simp] theorem State.setInputs_cmd (s : State) (q : Request) : (s.setInputs q).cmd = q.cmd := rfl
@[simp] theorem State.setInputs_w (s : State) (q : Request) : (s.setInputs q).w = q.w := rfl
@[simp] theorem State.setInputs_x (s : State) (q : Request) : (s.setInputs q).x = q.x := rfl
@[simp] theorem State.setInputs_response (s : State) (q : Request) : (s.setInputs q).response = s.response := rfl
@[simp] theorem State.setInputs_request (s : State) (q : Request) : (s.setInputs q).request = q := rfl
@[simp] theorem State.setInputs_own_request (s : State) : s.setInputs s.request = s := rfl

@[simp] theorem State.settle_cmd (s : State) : (s.settle).cmd = s.cmd := rfl
@[simp] theorem State.settle_w (s : State) : (s.settle).w = s.w := rfl
@[simp] theorem State.settle_x (s : State) : (s.settle).x = s.x := rfl
@[simp] theorem State.settle_request (s : State) : (s.settle).request = s.request := rfl

@[simp] theorem State.present_cmd (s : State) (q : Request) : (s.present q).cmd = q.cmd := rfl
@[simp] theorem State.present_w (s : State) (q : Request) : (s.present q).w = q.w := rfl
@[simp] theorem State.present_x (s : State) (q : Request) : (s.present q).x = q.x := rfl
@[simp] theorem State.present_request (s : State) (q : Request) : (s.present q).request = q := rfl
@[simp] theorem State.present_own_request (s : State) : s.present s.request = s.settle := rfl

@[simp] theorem State.driveCmd_cmd (s : State) (c : Command) : (s.driveCmd c).cmd = c := rfl
@[simp] theorem State.driveCmd_w (s : State) (c : Command) : (s.driveCmd c).w = s.w := rfl
@[simp] theorem State.driveCmd_x (s : State) (c : Command) : (s.driveCmd c).x = s.x := rfl
@[simp] theorem State.driveCmd_request (s : State) (c : Command) : (s.driveCmd c).request = { s.request with cmd := c } := rfl

@[simp] theorem State.driveWords_cmd (s : State) (w : Words) : (s.driveWords w).cmd = s.cmd := rfl
@[simp] theorem State.driveWords_w (s : State) (w : Words) : (s.driveWords w).w = w := rfl
@[simp] theorem State.driveWords_x (s : State) (w : Words) : (s.driveWords w).x = s.x := rfl
@[simp] theorem State.driveWords_request (s : State) (w : Words) : (s.driveWords w).request = { s.request with w := w } := rfl

@[simp] theorem State.request_cmd (s : State) : s.request.cmd = s.cmd := rfl
@[simp] theorem State.request_w (s : State) : s.request.w = s.w := rfl
@[simp] theorem State.request_x (s : State) : s.request.x = s.x := rfl
@[simp] theorem State.fetch_eq (s : State) : s.fetch = s.cmd := rfl

@[simp] theorem Response.faultBit_fault (c : Cause) : (Response.fault c).faultBit = 1#1 := rfl
@[simp] theorem Response.causeBits_fault (c : Cause) : (Response.fault c).causeBits = c.code := rfl
@[simp] theorem Response.scalar_fault (c : Cause) : (Response.fault c).scalar = none := rfl
@[simp] theorem Response.scalar_slice (v : Word) :
    (Response.slice v).scalar = some { width := 32, value := v } := rfl
@[simp] theorem Response.scalar_blocks (n : Port) : (Response.blocks n).scalar = some n := rfl

/-- `fault = 1` says exactly that the response is the fault. -/
theorem Response.faultBit_eq_one_iff (r : Response) : r.faultBit = 1#1 ↔ ∃ c, r = .fault c := by
  cases r <;> simp [Response.faultBit]

/-- `cause = 0` says exactly that the response is no fault (60_exceptions.md R171). -/
theorem Response.causeBits_eq_zero_iff (r : Response) : r.causeBits = 0#2 ↔ r.faultBit = 0#1 := by
  cases r with
  | fault c => cases c <;> simp [Response.causeBits, Response.faultBit, Cause.code]
  | _ => simp [Response.causeBits, Response.faultBit]

/-- Different causes have different codes. -/
theorem Cause.code_injective (c d : Cause) (h : c.code = d.code) : c = d := by
  cases c <;> cases d <;> first | rfl | exact absurd h (by decide)

end Sys2Proof.Machine
end

