-- ==== Sys2Proof/Laws/Ops.lean ====
section
/-!
SUPPORT. What each shared operation can do, said once.
-/

namespace Sys2Proof.Machine

/-- `memRead` answers the bytes inside the space, and faults exactly outside it. -/
theorem memRead_eq_ok_iff (m : Memory) (addr n v : Nat) :
    memRead m addr n = .ok v ↔ addr + n ≤ extLen ∧ v = m.number addr n := by
  unfold memRead
  split <;> simp_all [eq_comm]

/-- One byte read inside the space. -/
theorem memRead_one (m : Memory) (addr : Nat) (h : addr < extLen) : memRead m addr 1 = .ok (m.read addr).toNat := by
  simp [memRead, Memory.number, Nat.succ_le_of_lt h]

/-- The four bytes of the sector count, which never leave the space. -/
theorem sectorCount_eq (x : Memory) :
    sectorCount x = .ok ((x.read 212).toNat + (x.read 213).toNat * 2 ^ 8 + (x.read 214).toNat * 2 ^ 16
      + (x.read 215).toNat * 2 ^ 24) := by
  rfl

/-- The environment drives a byte of `X` exactly where there is one. -/
theorem State.driveX_eq_ok_iff (s t : State) (addr : Nat) (v : Byte) :
    s.driveX addr v = .ok t ↔ addr < extLen ∧ t = s.present { s.request with x := s.x.write addr v } := by
  unfold State.driveX
  split <;> simp_all [eq_comm]

/-- When the extractor's precondition holds over `n` words. -/
theorem sliceCause_eq_none_iff (n endBit startBit : Nat) :
    sliceCause n endBit startBit = none ↔ startBit ≤ endBit ∧ endBit - startBit < 32 ∧ endBit < 32 * n := by
  unfold sliceCause
  split
  · simp; omega
  · split
    · simp; omega
    · split
      · simp; omega
      · simp; omega

/-- The stream of the four words, written out (20_memory.md R40). -/
theorem stream_wordArray (w : Words) :
    stream (wordArray w)
      = w.w0.toNat + w.w1.toNat * 2 ^ 32 + w.w2.toNat * 2 ^ 64 + w.w3.toNat * 2 ^ 96 := by
  simp only [wordArray, stream]
  omega

/-- The stream of `n` words has `32*n` bits. -/
theorem stream_lt (ws : List Word) : stream ws < 2 ^ (32 * ws.length) := by
  induction ws with
  | nil => simp [stream]
  | cons w ws ih =>
    have hw : w.toNat < 2 ^ 32 := w.isLt
    have hp : 2 ^ (32 * (w :: ws).length) = 2 ^ 32 * 2 ^ (32 * ws.length) := by
      rw [← Nat.pow_add, List.length_cons, Nat.mul_succ, Nat.add_comm]
    rw [stream, hp]
    nlinarith

/-- The extractor's value as a number, wherever the slice is at most 32 bits wide. -/
theorem extract_toNat (ws : List Word) (endBit startBit : Nat) (h : endBit - startBit < 32) :
    (extract ws endBit startBit).toNat = stream ws / 2 ^ startBit % 2 ^ (endBit - startBit + 1) := by
  have hpos : 0 < 2 ^ (endBit - startBit + 1) := Nat.two_pow_pos _
  have hlt : stream ws / 2 ^ startBit % 2 ^ (endBit - startBit + 1) < 2 ^ 32 :=
    (Nat.mod_lt _ hpos).trans_le (Nat.pow_le_pow_right (by decide) (by omega))
  rw [extract, BitVec.toNat_ofNat, Nat.mod_eq_of_lt hlt]

/-- Bit `i` of a slice is stream bit `start + i` (40_slice.md R91). -/
theorem extract_getLsbD (ws : List Word) (endBit startBit i : Nat) (h : endBit - startBit < 32) :
    (extract ws endBit startBit).getLsbD i
      = (decide (i ≤ endBit - startBit) && (stream ws).testBit (startBit + i)) := by
  rw [← BitVec.testBit_toNat, extract_toNat ws endBit startBit h, Nat.testBit_mod_two_pow, Nat.testBit_div_two_pow,
    Nat.add_comm i startBit]
  congr 1
  simp

/-- What `SLICE` does at any parameters, when its precondition holds. -/
theorem sliceWith_of_legal (cfg : Config) (endBit startBit : Nat) (s : State)
    (h : startBit ≤ endBit ∧ endBit - startBit < 32 ∧ endBit < 128) :
    sliceWith cfg endBit startBit s = .next (s.answer (.slice (extract (wordArray s.w) endBit startBit))) := by
  have hc : sliceCause 4 endBit startBit = none := (sliceCause_eq_none_iff 4 endBit startBit).mpr (by omega)
  simp [sliceWith, sliceWords, wordArray, hc]

/-- What `SLICE` does at any parameters, when its precondition fails. -/
theorem sliceWith_of_cause (cfg : Config) (endBit startBit : Nat) (s : State) (c : Cause)
    (h : sliceCause 4 endBit startBit = some c) :
    sliceWith cfg endBit startBit s
      = if cfg.strict then .next (s.raiseFault c)
        else .next (s.answer (.slice (Config.uncheckedSlice endBit startBit s.w))) := by
  simp [sliceWith, sliceWords, wordArray, h]

/-- What `CAPEXT` does at any parameters. -/
theorem capExtWith_eq (cfg : Config) (s : State) :
    capExtWith cfg s = .next (s.answer (blocksResponse cfg ((s.x.read 212).toNat + (s.x.read 213).toNat * 2 ^ 8
      + (s.x.read 214).toNat * 2 ^ 16 + (s.x.read 215).toNat * 2 ^ 24))) := by
  rw [capExtWith, sectorCount_eq]
  rfl

/-- `SLICE` with any operands, at any parameters, writes the outputs and nothing else. -/
theorem sliceWith_eq_answer (cfg : Config) (endBit startBit : Nat) (s : State) :
    ∃ r, sliceWith cfg endBit startBit s = .next (s.answer r) := by
  unfold sliceWith
  split
  · exact ⟨_, rfl⟩
  · split
    · exact ⟨_, rfl⟩
    · exact ⟨_, rfl⟩

/-- Every operation has a next state, which differs in the outputs alone. -/
theorem exec_eq_answer (i : Instr) (s : State) : ∃ r, exec i s = .next (s.answer r) := by
  cases i with
  | slice endBit startBit => exact sliceWith_eq_answer config endBit startBit s
  | capext => exact ⟨_, capExtWith_eq config s⟩
  | cidsd | cidmmc | csdmmc | csdsd10 | csdsd20 | capcsd => exact ⟨_, rfl⟩

/-- A step lets the outputs follow the inputs, and does nothing else. -/
theorem step_eq_settle (s : State) : step s = .next s.settle := by
  obtain ⟨r, hr⟩ := exec_eq_answer (decodeCmd s.fetch) s
  have hop : operate s = .next (s.answer r) := hr
  rw [step, State.settle, hop]
  rfl

/-- The year port wherever the sum fits it (41_cid.md R112). -/
theorem yearPort_of_lt (epoch : Nat) (ws : List Word) (f : FieldSlice) (h : (sliceValue ws f).toNat + epoch < 2 ^ 16) :
    yearPort epoch ws f = { width := 16, value := BitVec.ofNat 16 ((sliceValue ws f).toNat + epoch) } := by
  simp only [yearPort, h, if_true]

/-- A step that has a next state changed only the outputs, and `responseOf` is what it put there. -/
theorem responseOf_eq_some_iff (o : Host.Outcome State Fault Refusal) (r : Response) :
    responseOf o = some r ↔ ∃ t, o = .next t ∧ t.response = r := by
  cases o <;> simp [responseOf]

end Sys2Proof.Machine
end

