-- ==== Sys2Proof/Laws/PerInstr.lean ====
section
/-!
SUPPORT. Statements about every instruction as syntax, one lemma per constructor.
-/

namespace Sys2Proof.Laws.OpSelect

/-- The encoder puts the operation's number in bits 16:14 of the command word (30_encoding.md R60, R64), and its operands in the
fields `end` and `start` where it has any. -/
def Statement (i : Instr) : Prop :=
  i.wellFormed = true → (opField (encode i)).toNat = i.op ∧
    match i with
    | .slice endBit startBit => endField (encode i) = endBit ∧ startField (encode i) = startBit
    | .cidsd | .cidmmc | .csdmmc | .csdsd10 | .csdsd20 | .capcsd | .capext =>
      endField (encode i) = 0 ∧ startField (encode i) = 0

theorem slice (endBit startBit : Nat) : Statement (.slice endBit startBit) := by
  intro h
  obtain ⟨he, hs⟩ : endBit < 128 ∧ startBit < 128 := by simpa [Instr.wellFormed] using h
  have hcmd : (encode (.slice endBit startBit)).toNat = endBit * 128 + startBit := by
    simp only [encode, Instr.op, Instr.operandBits, BitVec.toNat_ofNat]
    omega
  simp only [opField, endField, startField, BitVec.extractLsb'_toNat, hcmd, Nat.shiftRight_eq_div_pow, Instr.op]
  omega

theorem cidsd : Statement .cidsd := fun _ => by decide
theorem cidmmc : Statement .cidmmc := fun _ => by decide
theorem csdmmc : Statement .csdmmc := fun _ => by decide
theorem csdsd10 : Statement .csdsd10 := fun _ => by decide
theorem csdsd20 : Statement .csdsd20 := fun _ => by decide
theorem capcsd : Statement .capcsd := fun _ => by decide
theorem capext : Statement .capext := fun _ => by decide

end Sys2Proof.Laws.OpSelect
end

