-- ==== Sys2Proof/Tests/Slice0.lean ====
section
/-!
SUPPORT. Tests. Every expected value is from 95_test_vectors.md or written out by hand from the rule named; none is the model's own
answer.
-/

namespace Sys2Proof.Tests

open Sys2Proof.Machine

/-- A state with the register words given and everything else as after reset. -/
def reg (w0 w1 w2 w3 : Word) : State :=
  State.reset.driveWords { w0 := w0, w1 := w1, w2 := w2, w3 := w3 }

/-- The test words `T` of 95_test_vectors.md section 2.1. -/
def t : State := reg 0x89ABCDEF#32 0x01234567#32 0xFEDCBA98#32 0x76543210#32

/-- A state with the four bytes of the sector count, and `0xAA` beside them (95_test_vectors.md section 2.4). -/
def ext (b0 b1 b2 b3 : Byte) : State :=
  { State.reset with
    x := ((((((Memory.write [] 211 0xAA#8).write 212 b0).write 213 b1).write 214 b2).write 215 b3).write 216 0xAA#8) }

/-- The value of a CSD port after an operation. -/
def csdPort (o : Host.Outcome State Fault Refusal) (p : CsdPort) : Option Port :=
  ((responseOf o).bind Response.csdRecord).bind fun r => r.lookup p

/-- The value of a CID port after an operation. -/
def cidPort (o : Host.Outcome State Fault Refusal) (p : CidPort) : Option Port :=
  ((responseOf o).bind Response.cidRecord).bind fun r => r.lookup p

/-! ## Decoding: words written out bit by bit from 30_encoding.md R60 and R64, `op` then `end` then `start`. -/

theorem test_decode_slice : decodeCmd 0b000_1001001_0111110#17 = .slice 73 62 := by decide
theorem test_decode_cidsd : decodeCmd 0b001_0000000_0000000#17 = .cidsd := by decide
theorem test_decode_cidmmc : decodeCmd 0b010_0000000_0000000#17 = .cidmmc := by decide
theorem test_decode_csdmmc : decodeCmd 0b011_0000000_0000000#17 = .csdmmc := by decide
theorem test_decode_csdsd10 : decodeCmd 0b100_0000000_0000000#17 = .csdsd10 := by decide
theorem test_decode_csdsd20 : decodeCmd 0b101_0000000_0000000#17 = .csdsd20 := by decide
theorem test_decode_capcsd : decodeCmd 0b110_0010101_0111100#17 = .capcsd := by decide
theorem test_decode_capext : decodeCmd 0b111_1111111_1111111#17 = .capext := by decide
theorem test_decode_too_wide : decodeBits 0x20000 = .error .widerThanCommand := rfl
theorem test_decode_bytes : decodeBytes 0xBE#8 0x24#8 0x00#8 = .ok (.slice 73 62) := rfl
theorem test_encode_slice : encode (.slice 73 62) = 0x024BE#17 := by decide
theorem test_table_word : decodeTableWord 24 0x14000 = some .csdsd20 := by decide

/-- A table word becomes the first operation after reset. -/
theorem test_fetch_word :
    responseOf (step (State.reset.withFetchWord 24 0x04000)) = responseOf (exec .cidsd State.reset) := by decide

/-! ## Well-formedness refuses an ill-formed term of each kind. -/

theorem test_refuses_wide_end : (Instr.slice 128 0).wellFormed = false := by decide
theorem test_refuses_wide_start : (Instr.slice 0 128).wellFormed = false := by decide
theorem test_refuses_overlap :
    slicesDisjoint [{ endBit := 10, startBit := 5 }, { endBit := 5, startBit := 0 }] = false := by decide
theorem test_refuses_row_twice :
    csdLayoutWellFormed [⟨.crc, { endBit := 7, startBit := 1 }⟩, ⟨.crc, { endBit := 9, startBit := 8 }⟩] = false := by
  decide
theorem test_refuses_name_twice :
    cidLayoutWellFormed 5 [⟨.mdtY, { endBit := 7, startBit := 1 }⟩, ⟨.mdtY, { endBit := 9, startBit := 8 }⟩] = false := by
  decide
theorem test_refuses_overlapping_tables :
    ({ tables with csdMmc := [⟨.crc, { endBit := 7, startBit := 1 }⟩, ⟨.ecc, { endBit := 7, startBit := 7 }⟩] } :
      Tables).wellFormed 5 6 = false := by decide
theorem test_refuses_name_row_outside :
    cidLayoutWellFormed 5 [⟨.pnm 5, { endBit := 7, startBit := 0 }⟩] = false := by decide
theorem test_refuses_name_row_of_other_width :
    cidLayoutWellFormed 5 [⟨.pnm 4, { endBit := 8, startBit := 0 }⟩] = false := by decide
theorem test_refuses_row_named_as_element :
    cidLayoutWellFormed 5 [⟨.port (.pnm 0), { endBit := 7, startBit := 0 }⟩] = false := by decide
theorem test_memory_refuses_falling : Memory.wf [(5, 1#8), (4, 1#8)] = false := by decide
theorem test_memory_refuses_unlisted : Memory.wf [(5, 0#8)] = false := by decide
theorem test_memory_refuses_outside : Memory.wf [(512, 1#8)] = false := by decide

/-! ## The outputs follow the inputs at once (10_state.md R32): V-SL-14's request driven, no step yet. -/

theorem test_outputs_follow_command : (t.driveCmd (encode (.slice 62 31))).response = .slice 0x02468ACF#32 := by decide

/-! ## SLICE (95_test_vectors.md V-SL-14, V-SL-29, V-SL-31) -/

theorem test_slice_two_piece : responseOf (exec (.slice 62 31) t) = some (.slice 0x02468ACF#32) := by decide
theorem test_slice_faults :
    responseOf (exec (.slice 127 0) t) = some (.fault .spanGe32)
      ∧ responseOf (exec (.slice 0 127) t) = some (.fault .endLtStart) := by decide

/-! ## CID decoders (V-CID-1, V-CID-3) -/

theorem test_cidsd_year_and_name :
    let o := exec .cidsd (reg 0x78014755#32 0x80123456#32 0x55303847#32 0x03534453#32)
    cidPort o .mdtY = some ⟨16, 2020#16⟩ ∧ cidPort o (.pnm 0) = some ⟨8, 0x53#8⟩
      ∧ cidPort o (.pnm 4) = some ⟨8, 0x47#8⟩ := by decide
theorem test_cidsd_serial :
    let o := exec .cidsd (reg 0x78014755#32 0x80123456#32 0x55303847#32 0x03534453#32)
    cidPort o .psn = some ⟨32, 0x12345678#32⟩ ∧ cidPort o .mdtM = some ⟨4, 7#4⟩ := by decide
theorem test_cidmmc_year_and_name :
    let o := exec .cidmmc (reg 0xBEEF3CAB#32 0x4712DEAD#32 0x4D433034#32 0x1501004D#32)
    cidPort o .mdtY = some ⟨16, 2009#16⟩ ∧ cidPort o (.pnm 2) = some ⟨8, 0x43#8⟩
      ∧ cidPort o (.pnm 5) = some ⟨8, 0x47#8⟩ := by decide
theorem test_cidmmc_serial :
    let o := exec .cidmmc (reg 0xBEEF3CAB#32 0x4712DEAD#32 0x4D433034#32 0x1501004D#32)
    cidPort o .psn = some ⟨32, 0xDEADBEEF#32⟩ ∧ cidPort o .mdtM = some ⟨4, 3#4⟩ := by decide

/-! ## CSD decoders (V-CSD-3, V-CSD-1, V-CSD-2, V-CSD-4, V-CSD-14) -/

theorem test_csdmmc_fields :
    let o := exec .csdmmc (reg 0x8A404067#32 0xFFFFFFEF#32 0x0F5903FF#32 0x90270132#32)
    csdPort o .specVers = some ⟨4, 4#4⟩ ∧ csdPort o .wpGrpSize = some ⟨5, 15#5⟩ ∧ csdPort o .crc = some ⟨7, 0x33#7⟩ := by
  decide
theorem test_csdmmc_only_its_own_rows :
    let o := exec .csdmmc (reg 0x601F0301#32 0#32 0x00000C00#32 0x3F000000#32)
    csdPort o .defaultEcc = some ⟨2, 3#2⟩ ∧ csdPort o .cSize = some ⟨12, 0#12⟩ ∧ csdPort o .eraseBlkEn = none := by decide
theorem test_csdsd10_fields :
    let o := exec .csdsd10 (reg 0x12800097#32 0xEDDBFF80#32 0x5B5A83A9#32 0x00260032#32)
    csdPort o .cSize = some ⟨12, 0xEA7#12⟩ ∧ csdPort o .readBlPartial = some ⟨1, 1#1⟩ ∧ csdPort o .ccc = some ⟨12, 0x5B5#12⟩ := by
  decide
theorem test_csdsd10_voltages :
    let o := exec .csdsd10 (reg 0x12800097#32 0xEDDBFF80#32 0x5B5A83A9#32 0x00260032#32)
    csdPort o .vddRCurrMax = some ⟨3, 5#3⟩ ∧ csdPort o .vddWCurrMin = some ⟨3, 6#3⟩ := by decide
theorem test_csdsd20_fields :
    let o := exec .csdsd20 (reg 0x0A40003B#32 0x3B377F80#32 0x5B590000#32 0x400E0032#32)
    csdPort o .cSize = some ⟨22, 0x3B37#22⟩ ∧ csdPort o .writeBlLen = some ⟨4, 9#4⟩ ∧ csdPort o .cSizeMult = none := by decide
theorem test_csdsd20_wrong_version :
    csdPort (exec .csdsd20 (reg 0x12800097#32 0xEDDBFF80#32 0x5B5A83A9#32 0x00260032#32)) .cSize
      = some ⟨22, 0x29EDDB#22⟩ := by decide

/-! ## Capacity (V-CAP-9, V-CAP-19, V-EXT-3, V-EXT-5) -/

theorem test_capcsd_version0 :
    responseOf (exec .capcsd (reg 0#32 0xC0038000#32 0x000A03A9#32 0#32)) = some (.blocks ⟨32, 3842048#32⟩) := by decide
theorem test_capcsd_wrap :
    responseOf (exec .capcsd (reg 0#32 0xFFFF0000#32 0x0000003F#32 0x40000000#32)) = some (.blocks ⟨32, 0#32⟩) := by decide
theorem test_capext_order :
    responseOf (exec .capext (ext 0x78#8 0x56#8 0x34#8 0x12#8)) = some (.blocks ⟨32, 0x12345678#32⟩) := by decide
theorem test_capext_top_bit :
    responseOf (exec .capext (ext 0x00#8 0x00#8 0x00#8 0x80#8)) = some (.blocks ⟨32, 2147483648#32⟩) := by decide

/-! ## Assembler (30_encoding.md R77's examples; a comment, R76) -/

theorem test_assemble_field : assembleLine "FIELD CSD_SD10.c_size ; capacity".toList = some 0x024BE#17 := by decide
theorem test_assemble_pnm : assembleLine "FIELD CID_MMC.PNM0".toList = some 0x01FB8#17 := by decide
theorem test_disassemble : disassemble 0x18ABC#17 = "CAPCSD".toList ∧ disassemble 0x024BE#17 = "SLICE 73, 62".toList := by
  decide

/-! ## Witnesses: for each statement with hypotheses, a state and operands that meet them. -/

theorem witness_DecodeEncodeRoundTrip : (Instr.slice 127 0).wellFormed = true ∧ (Instr.slice 0 127).wellFormed = true := by
  decide
theorem witness_DontCareBitsGiveSameResponse :
    0x18000#17 &&& 0x1C000#17 = 0x1BFFF#17 &&& 0x1C000#17 ∧ 0x18000#17 &&& 0x1C000#17 ≠ 0#17 := by decide
theorem witness_SliceReturnsStreamBits :
    (0 ≤ 0 ∧ 0 - 0 < 32 ∧ 0 < 128) ∧ (96 ≤ 127 ∧ 127 - 96 < 32 ∧ 127 < 128) ∧ (31 ≤ 62 ∧ 62 - 31 < 32 ∧ 62 < 128) := by
  decide
theorem witness_SliceViolationTakesFault :
    (126 < 128 ∧ 127 < 128 ∧ 126 < 127) ∧ (127 < 128 ∧ 95 < 128 ∧ 95 ≤ 127 ∧ 32 ≤ 127 - 95) := by decide
theorem witness_TwoPieceAlgorithmAgrees :
    (31 ≤ 32 ∧ 32 - 31 < 32 ∧ 32 < 32 * [1#32, 1#32].length) ∧ (32 ≤ 63 ∧ 63 - 32 < 32 ∧ 63 < 32 * [1#32, 1#32].length) := by
  decide
theorem witness_SliceReadsAtMostTwoWords :
    let s := reg 1#32 2#32 3#32 4#32
    let u := reg 1#32 2#32 5#32 6#32
    24 ≤ 55 ∧ 55 - 24 < 32 ∧ 55 < 128 ∧ wordAt (wordArray s.w) (24 / 32) = wordAt (wordArray u.w) (24 / 32)
      ∧ wordAt (wordArray s.w) (55 / 32) = wordAt (wordArray u.w) (55 / 32) ∧ s ≠ u := by decide
theorem witness_SlicePutsBitsBackInPlace : 24 ≤ 55 ∧ 55 - 24 < 32 ∧ 55 < 128 := by decide
theorem witness_PackedFieldsAreExtracted :
    let fields : List (FieldSlice × Nat) := [({ endBit := 39, startBit := 8 }, 0x80000003), ({ endBit := 7, startBit := 0 }, 5)]
    slicesDisjoint (fields.map Prod.fst) = true ∧ (∀ p ∈ fields, p.2 < 2 ^ p.1.width)
      ∧ stream (wordArray (reg 0x00000305#32 0x80#32 0#32 0#32).w) = (fields.map fun p => p.2 * 2 ^ p.1.startBit).sum := by
  decide
theorem witness_SlicesConcatenate : 0 ≤ 7 ∧ 7 < 31 ∧ 31 - 0 < 32 ∧ 31 < 128 := by decide
theorem witness_WorkedExampleAcrossBoundary :
    let s := (reg 0xFFFFFFFF#32 0x00000001#32 7#32 9#32).driveCmd 0x0101F#17
    s.w.w0 = 0xFFFFFFFF#32 ∧ s.w.w1 = 0x00000001#32 ∧ s.cmd = 0x0101F#17 := by decide
theorem witness_GenericExtractorTestsInOrder :
    (0 < 1) ∧ (0 ≤ 32 ∧ 32 ≤ 32 - 0) ∧ (60 ≤ 64 ∧ 64 - 60 < 32 ∧ 32 * [1#32, 1#32].length ≤ 64)
      ∧ (60 ≤ 63 ∧ 63 - 60 < 32 ∧ 63 < 32 * [1#32, 1#32].length) := by decide
theorem witness_UncheckedExtractorGivesSomeValue :
    ({ config with strict := false } : Config).strict = false ∧ 0 ≤ 31 ∧ 31 - 0 < 32 ∧ 31 < 128 := by decide
theorem witness_DecodersIgnoreUncoveredBits :
    Spec.agreeOn (~~~0x00000000000000000000000000F00001#128) (reg 0#32 0#32 0#32 0#32).w (reg 0x00F00001#32 0#32 0#32 0#32).w
    ∧ Spec.agreeOn (~~~0x00000000000000000000000000000001#128) (reg 0#32 0#32 0#32 0#32).w (reg 1#32 0#32 0#32 0#32).w
    ∧ Spec.agreeOn (~~~0x0300000000000C0000000000001E0001#128) (reg 0#32 0#32 0#32 0#32).w
        (reg 0x001E0001#32 0#32 0x00000C00#32 0x03000000#32).w
    ∧ Spec.agreeOn (~~~0x3F00000000000C0000000000601F0301#128) (reg 0#32 0#32 0#32 0#32).w
        (reg 0x601F0301#32 0#32 0x00000C00#32 0x3F000000#32).w
    ∧ Spec.agreeOn (~~~0x3F00000000000FC000008000601F0301#128) (reg 0#32 0#32 0#32 0#32).w
        (reg 0x601F0301#32 0x00008000#32 0x00000FC0#32 0x3F000000#32).w := by
  unfold Spec.agreeOn
  decide
theorem witness_DecoderPortsEqualFieldSlices :
    expandField (.cidSd (.port .psn)) = some (.slice 55 24) ∧ expandField (.cidMmc (.port .crc)) = some (.slice 7 1)
    ∧ expandField (.csdMmc .ecc) = some (.slice 9 8) ∧ expandField (.csdSd10 .csdStructure) = some (.slice 127 126)
    ∧ expandField (.csdSd20 .cSize) = some (.slice 69 48) := by decide
theorem witness_FieldExpansionNeverFaults : expandField (.cidSd .mdtY) = some (.slice 19 12) := by decide
theorem witness_CapCsdReservedVersionGivesZero :
    sliceValue (wordArray (reg 0#32 0#32 0#32 0x80000000#32).w) config.tables.capacity.csdStructure = 2#32
    ∧ sliceValue (wordArray (reg 0#32 0#32 0#32 0xC0000000#32).w) config.tables.capacity.csdStructure = 3#32 := by decide
theorem witness_CapCsdVersion0IsExact :
    let s := reg 0#32 0#32 0x00090000#32 0#32
    Spec.bitsNat s.w 127 126 = 0 ∧ 9 ≤ Spec.bitsNat s.w 83 80 := by decide
theorem witness_CapCsdVersion1WrapsOnlyAtTheTop :
    let s := reg 0#32 0xFFFF0000#32 0x0000003F#32 0x40000000#32
    let u := reg 0#32 0xFFFE0000#32 0x0000003F#32 0x40000000#32
    Spec.bitsNat s.w 127 126 = 1 ∧ Spec.bitsNat s.w 69 48 = 0x3FFFFF
      ∧ Spec.bitsNat u.w 127 126 = 1 ∧ Spec.bitsNat u.w 69 48 ≠ 0x3FFFFF
      ∧ ({ config with capWidth := 33 } : Config).tables = config.tables
      ∧ 33 ≤ ({ config with capWidth := 33 } : Config).capWidth := by decide
theorem witness_CapCsdShortBlockLengthParameter :
    let s := reg 0#32 0#32 0x00080000#32 0#32
    Spec.bitsNat s.w 127 126 = 0 ∧ Spec.bitsNat s.w 83 80 = 8 := by decide
theorem witness_CapCsdReadsOnlyItsFields :
    let s := reg 0#32 0#32 0x00090000#32 0#32
    let u := reg 0xFFFFFFFF#32 0x3FFC7FFF#32 0xFFF9FC00#32 0x3FFFFFFF#32
    let p := reg 0#32 0#32 0#32 0x40000000#32
    let q := reg 0xFFFFFFFF#32 0x0000FFFF#32 0xFFFFFFC0#32 0x7FFFFFFF#32
    (Spec.bitsNat s.w 127 126 = 0 ∧ Spec.bitsNat u.w 127 126 = 0 ∧ Spec.bitsNat s.w 83 80 = Spec.bitsNat u.w 83 80
      ∧ Spec.bitsNat s.w 73 62 = Spec.bitsNat u.w 73 62 ∧ Spec.bitsNat s.w 49 47 = Spec.bitsNat u.w 49 47)
    ∧ Spec.bitsNat p.w 127 126 = 1 ∧ Spec.bitsNat q.w 127 126 = 1 ∧ Spec.bitsNat p.w 69 48 = Spec.bitsNat q.w 69 48 := by
  decide
theorem witness_CapCsdAgreesWithDecoders :
    let s := reg 0x12800097#32 0xEDDBFF80#32 0x5B5A83A9#32 0x00260032#32
    let u := reg 0x0A40003B#32 0x3B377F80#32 0x5B590000#32 0x400E0032#32
    let v := reg 0#32 0#32 0x00080000#32 0#32
    csdPort (exec .csdsd10 s) .csdStructure = some ⟨2, 0#2⟩ ∧ csdPort (exec .csdsd10 s) .readBlLen = some ⟨4, 10#4⟩
      ∧ csdPort (exec .csdsd10 v) .csdStructure = some ⟨2, 0#2⟩ ∧ csdPort (exec .csdsd10 v) .readBlLen = some ⟨4, 8#4⟩
      ∧ csdPort (exec .csdsd10 u) .csdStructure = some ⟨2, 1#2⟩ := by decide
theorem witness_CapExtSectorCount :
    let s := ext 0x00#8 0x00#8 0xE9#8 0x00#8
    s.x.read 212 = 0x00#8 ∧ s.x.read 213 = 0x00#8 ∧ s.x.read 214 = 0xE9#8 ∧ s.x.read 215 = 0x00#8 := by decide
theorem witness_ReadsOfTheTwoSpaces :
    let s := ext 1#8 2#8 3#8 4#8
    let u := { s with x := s.x.write 216 0#8 }
    (s.x.read 212 = u.x.read 212 ∧ s.x.read 213 = u.x.read 213 ∧ s.x.read 214 = u.x.read 214 ∧ s.x.read 215 = u.x.read 215)
      ∧ s ≠ u ∧ Instr.cidsd ≠ .capext ∧ s.w = u.w := by decide
theorem witness_StepKeepsOutputShape :
    let s := { State.reset with response := .fault .indexRange }
    s.x.wf = true ∧ step s = .next State.reset ∧ s ≠ State.reset := ⟨rfl, rfl, by decide⟩
theorem witness_EnvironmentKeepsInvariant :
    State.reset.x.wf = true ∧ (State.reset.driveX 511 7#8).isOk = true ∧ t.request.x.wf = true := ⟨rfl, rfl, rfl⟩
theorem witness_ResponseDependsOnRequestOnly :
    let u := { t with response := .fault .spanGe32 }
    t.request = u.request ∧ t ≠ u := by decide
theorem witness_ProgramOrderIsIrrelevant :
    List.Perm [t.request, State.reset.request] [State.reset.request, t.request] := List.Perm.swap _ _ _
theorem witness_RunIsSafeExactlyForLegalRequests :
    instrLegal (decodeCmd 0x01388#17) ∧ ¬ instrLegal (decodeCmd 0x01408#17) := by
  constructor
  · show sliceLegal 39 8
    unfold sliceLegal
    decide
  · show ¬ sliceLegal 40 8
    unfold sliceLegal
    decide
theorem witness_DrivenByteReadsBack :
    (ext 1#8 2#8 3#8 4#8).x.wf = true ∧ 511 < 512 ∧ 512 ≤ 512 ∧ 508 + 4 ≤ 512 ∧ 512 < 509 + 4 := by decide
theorem witness_EqualBytesAreEqualMemories :
    Memory.wf ((Memory.write [] 0 1#8).write 511 2#8) = true ∧ Memory.wf ((Memory.write [] 511 2#8).write 0 1#8) = true
      ∧ (∀ a < 512, ((Memory.write [] 0 1#8).write 511 2#8).read a = ((Memory.write [] 511 2#8).write 0 1#8).read a) := by
  refine ⟨by decide, by decide, fun a _ => ?_⟩
  rw [show (Memory.write [] 0 1#8).write 511 2#8 = (Memory.write [] 511 2#8).write 0 1#8 by decide]
theorem witness_AssemblerReadsPrintedText : (Instr.slice 0 127).wellFormed = true ∧ Instr.capext.wellFormed = true := by decide

end Sys2Proof.Tests
end

section
/-! PROOFS. The register bitstream bit by bit (20_memory.md R40). -/

namespace Sys2Proof.Machine

/-- Bit by bit, adding a word in front of an array: its 32 bits come first, and the others move up by 32. -/
theorem stream_cons_testBit (w : Word) (ws : List Word) (b : Nat) :
    (stream (w :: ws)).testBit b = if b < 32 then w.getLsbD b else (stream ws).testBit (b - 32) := by
  rw [stream, Nat.add_comm, Nat.testBit_two_pow_mul_add _ w.isLt, BitVec.testBit_toNat]

@[simp] theorem wordAt_cons_zero (w : Word) (ws : List Word) : wordAt (w :: ws) 0 = w := rfl

@[simp] theorem wordAt_cons_succ (w : Word) (ws : List Word) (i : Nat) : wordAt (w :: ws) (i + 1) = wordAt ws i := rfl

/-- Stream bit `b` is bit `b mod 32` of word `b div 32`, over an array of any length; beyond the array both are 0. -/
theorem stream_testBit (ws : List Word) (b : Nat) :
    (stream ws).testBit b = (wordAt ws (b / 32)).getLsbD (b % 32) := by
  induction ws generalizing b with
  | nil => simp [stream, wordAt]
  | cons w ws ih =>
    rw [stream_cons_testBit]
    split
    case isTrue hb => rw [Nat.div_eq_of_lt hb, Nat.mod_eq_of_lt hb, wordAt_cons_zero]
    case isFalse hb =>
      obtain ⟨c, rfl⟩ := Nat.exists_eq_add_of_le' (Nat.le_of_not_lt hb)
      rw [Nat.add_sub_cancel, ih, Nat.add_div_right _ (by decide), wordAt_cons_succ, Nat.add_mod_right]

/-- The bits of word `i` are the stream bits from `32*i` on. -/
theorem stream_testBit_word (ws : List Word) (i : Nat) {b : Nat} (hb : b < 32) :
    (stream ws).testBit (32 * i + b) = (wordAt ws i).getLsbD b := by
  rw [stream_testBit, Nat.mul_add_div (by decide), Nat.div_eq_of_lt hb, Nat.add_zero, Nat.mul_add_mod, Nat.mod_eq_of_lt hb]

/-- Appending bit vectors is the sum of their numbers, the left one shifted up by the width of the right one. -/
theorem toNat_append_eq_add {m n : Nat} (x : BitVec m) (y : BitVec n) :
    (x ++ y).toNat = x.toNat * 2 ^ n + y.toNat := by
  rw [BitVec.toNat_append, ← Nat.shiftLeft_add_eq_or_of_lt y.isLt, Nat.shiftLeft_eq]

/-- The stream is the 128-bit register, `W[3]` at the top. -/
theorem stream_eq_registerBits (w : Words) : stream (wordArray w) = (Spec.registerBits w).toNat := by
  rw [stream_wordArray, Spec.registerBits, toNat_append_eq_add, toNat_append_eq_add, toNat_append_eq_add]
  omega

/-- Settles O7: the sum and the concatenation as numbers, and the bits from the rule for an array of any length. -/
theorem streamIsWordsInIndexOrder : Obligations.StreamIsWordsInIndexOrder := fun w =>
  ⟨stream_wordArray w, stream_eq_registerBits w, fun b _ => stream_testBit (wordArray w) b,
    fun b hb => by simpa [wordArray] using stream_testBit_word (wordArray w) 0 hb,
    fun _ hb => stream_testBit_word (wordArray w) 1 hb,
    fun _ hb => stream_testBit_word (wordArray w) 2 hb,
    fun _ hb => stream_testBit_word (wordArray w) 3 hb⟩

end Sys2Proof.Machine
end

section
/-! PROOFS. The field `op` selects the operation (30_encoding.md R61, R64). -/

namespace Sys2Proof

/-- The opcode map read from `op` to the operation (30_encoding.md R64), with the operands of the one row that has any. -/
def Instr.ofOp (endBit startBit : Nat) : Fin 8 → Instr
  | 0 => .slice endBit startBit
  | 1 => .cidsd
  | 2 => .cidmmc
  | 3 => .csdmmc
  | 4 => .csdsd10
  | 5 => .csdsd20
  | 6 => .capcsd
  | 7 => .capext

/-- The row of the map found under `k` is the operation whose `op` is `k`. -/
@[simp] theorem Instr.op_ofOp (endBit startBit : Nat) (k : Fin 8) : (Instr.ofOp endBit startBit k).op = k := by
  fin_cases k <;> rfl

/-- No two rows of the opcode map are the same operation. -/
theorem Instr.ofOp_injective (endBit startBit : Nat) : Function.Injective (Instr.ofOp endBit startBit) :=
  fun k l h => Fin.ext <| by simpa using congrArg Instr.op h

/-- The field `end` as a number (30_encoding.md R60). -/
theorem endField_eq (c : Command) : endField c = c.toNat / 2 ^ 7 % 2 ^ 7 := by
  rw [endField, BitVec.extractLsb'_toNat, Nat.shiftRight_eq_div_pow]

/-- The field `start` as a number (30_encoding.md R60). -/
theorem startField_eq (c : Command) : startField c = c.toNat % 2 ^ 7 := by
  rw [startField, BitVec.extractLsb'_toNat, Nat.shiftRight_zero]

/-- The decoder looks the operation up under `op` in the opcode map, and nowhere else. -/
theorem decodeCmd_eq_ofOp (c : Command) :
    decodeCmd c = Instr.ofOp (endField c) (startField c) (opField c).toFin := by
  have h16 : c.getLsbD 16 = (opField c).getLsbD 2 := by simp [opField]
  have h15 : c.getLsbD 15 = (opField c).getLsbD 1 := by simp [opField]
  have h14 : c.getLsbD 14 = (opField c).getLsbD 0 := by simp [opField]
  rw [decodeCmd, h16, h15, h14]
  generalize opField c = op
  obtain ⟨k⟩ := op
  fin_cases k <;> rfl

/-- The mask of the opcode map keeps `op` and clears bits 13:0. -/
theorem and_opMask (c : Command) : c &&& 0x1C000#17 = opField c ++ 0#14 := by
  have hsplit : opField c ++ c.extractLsb' 0 14 = c := BitVec.extractLsb'_append_extractLsb'
  calc c &&& 0x1C000#17
      = (opField c ++ c.extractLsb' 0 14) &&& (BitVec.allOnes 3 ++ 0#14) := by rw [hsplit]; rfl
    _ = opField c ++ 0#14 := by rw [BitVec.and_append, BitVec.and_allOnes, BitVec.and_zero]

/-- The masked command word as a number: `op*2^14`, the form of the opcode map's match values. -/
theorem and_opMask_eq_ofNat (c : Command) :
    c &&& 0x1C000#17 = BitVec.ofNat 17 ((opField c).toNat * 2 ^ 14) := by
  have hnum : (opField c ++ 0#14).toNat = (opField c).toNat * 2 ^ 14 := by
    rw [Machine.toNat_append_eq_add, BitVec.toNat_zero, Nat.add_zero]
  rw [and_opMask, ← hnum, BitVec.ofNat_toNat, BitVec.setWidth_eq]

/-- A row's match value is met exactly by the command words that decode to the row's operation. -/
theorem and_opMask_eq_iff (c : Command) (k : BitVec 3) :
    c &&& 0x1C000#17 = k ++ 0#14 ↔ decodeCmd c = Instr.ofOp (endField c) (startField c) k.toFin := by
  rw [and_opMask, BitVec.append_left_inj, decodeCmd_eq_ofOp, (Instr.ofOp_injective _ _).eq_iff, BitVec.toFin_inj]

/-- A command word, as a number, is never too wide for the decoder. -/
theorem decodeBits_toNat (c : Command) : decodeBits c.toNat = .ok (decodeCmd c) := by
  rw [decodeBits, if_pos c.isLt, BitVec.ofNat_toNat, BitVec.setWidth_eq]

/-- Settles O5: the mask leaves `op` alone, and each match value is one row of the opcode map. -/
theorem opFieldSelectsExactlyOneOperation : Obligations.OpFieldSelectsExactlyOneOperation := fun c =>
  ⟨⟨(opField c).toNat, (opField c).isLt, and_opMask_eq_ofNat c⟩,
    by rw [← endField_eq, ← startField_eq]; exact and_opMask_eq_iff c 0,
    and_opMask_eq_iff c 1, and_opMask_eq_iff c 2, and_opMask_eq_iff c 3, and_opMask_eq_iff c 4,
    and_opMask_eq_iff c 5, and_opMask_eq_iff c 6, and_opMask_eq_iff c 7, decodeBits_toNat c⟩

end Sys2Proof
end

section
/-! PROOFS. `SLICE` with operands that meet its precondition (40_slice.md R91, R97). -/

namespace Sys2Proof.Machine

@[simp] theorem Response.faultBit_slice (v : Word) : (Response.slice v).faultBit = 0#1 := rfl

@[simp] theorem Response.causeBits_slice (v : Word) : (Response.slice v).causeBits = 0#2 := rfl

/-- What `SLICE` does when its precondition holds: it answers the extractor's value, and changes nothing but the outputs. -/
theorem exec_slice_of_legal {endBit startBit : Nat} (s : State) (h : sliceLegal endBit startBit) :
    exec (.slice endBit startBit) s = .next (s.answer (.slice (extract (wordArray s.w) endBit startBit))) :=
  sliceWith_of_legal config endBit startBit s h

/-- A step whose command word decodes to `i` is the meaning of `i`. -/
theorem step_of_decodeCmd {s : State} {i : Instr} (h : decodeCmd s.cmd = i) : step s = exec i s := by
  rw [step, operate, State.fetch_eq, h]

/-- Settles O8: `SLICE` answers the extractor's value, whose bits are known one by one. -/
theorem sliceReturnsStreamBits : Obligations.SliceReturnsStreamBits := by
  intro s endBit startBit hle hspan hend S
  have hS : stream (wordArray s.w) = S := stream_wordArray s.w
  refine ⟨extract (wordArray s.w) endBit startBit, exec_slice_of_legal s ⟨hle, hspan, hend⟩, ?value, ?bits, ?high,
    Response.scalar_slice _, Response.faultBit_slice _, Response.causeBits_slice _⟩
  case value => rw [extract_toNat _ _ _ hspan, hS]
  case bits =>
    intro i hi
    rw [extract_getLsbD _ _ _ _ hspan, hS, decide_eq_true hi, Bool.true_and]
  case high =>
    intro i hi
    rw [extract_getLsbD _ _ _ _ hspan, decide_eq_false (Nat.not_le_of_lt hi), Bool.false_and]

/-- The two pieces of `SLICE 32, 31`: the top bit of word 0 and the lowest bit of word 1, whatever the words hold. -/
theorem extractTwoPiece_32_31 (w : Words) :
    extractTwoPiece (wordArray w) 32 31 = (w.w0 >>> 31) ||| ((w.w1 &&& 1#32) <<< 1) := rfl

/-- Stream bits 32 and 31 of the worked example (40_slice.md R97): words 2 and 3 lie above them. -/
theorem extract_32_31_of_worked_example {w : Words} (h0 : w.w0 = 0xFFFFFFFF#32) (h1 : w.w1 = 1#32) :
    extract (wordArray w) 32 31 = 3#32 := by
  apply BitVec.eq_of_toNat_eq
  rw [extract_toNat _ _ _ (by decide), stream_wordArray, h0, h1]
  simp only [BitVec.toNat_ofNat]
  omega

/-- Settles O15: both computations give 3, and the step is the `SLICE` the command word decodes to. -/
theorem workedExampleAcrossBoundary : Obligations.WorkedExampleAcrossBoundary := by
  intro s h0 h1 hcmd
  have hdecode : decodeCmd s.cmd = .slice 32 31 := by rw [hcmd]; decide
  have hpieces : (s.w.w0 >>> 31) ||| ((s.w.w1 &&& 1#32) <<< 1) = 3#32 := by rw [h0, h1]; decide
  have hstep : step s = .next (s.answer (.slice 3#32)) := by
    rw [step_of_decodeCmd hdecode, exec_slice_of_legal s ⟨by decide, by decide, by decide⟩,
      extract_32_31_of_worked_example h0 h1]
  exact ⟨hdecode, rfl, rfl, rfl, rfl, rfl, hpieces, (extractTwoPiece_32_31 s.w).trans hpieces, hstep⟩

end Sys2Proof.Machine
end

section
/-! PROOFS. The capacity calculators: a reserved structure version, and the sector count (43_capacity.md R153, R155). -/

namespace Sys2Proof.Machine

@[simp] theorem Response.faultBit_blocks (n : Port) : (Response.blocks n).faultBit = 0#1 := rfl

@[simp] theorem Response.causeBits_blocks (n : Port) : (Response.blocks n).causeBits = 0#2 := rfl

/-- A reserved structure version counts no blocks, at any parameters (43_capacity.md R153). -/
theorem csdBlocks_of_reserved (cfg : Config) (w : Words)
    (h : 2 ≤ (sliceValue (wordArray w) cfg.tables.capacity.csdStructure).toNat) : csdBlocks cfg w = 0 := by
  rw [csdBlocks, if_neg (by omega), if_neg (by omega)]

/-- What `CAPCSD` does: it answers its block count on 32 bits, and changes nothing but the outputs. -/
theorem exec_capcsd (s : State) :
    exec .capcsd s
      = .next (s.answer (.blocks { width := 32, value := BitVec.ofNat 32 (csdBlocks config s.w) })) := rfl

/-- Settles O33: versions 2 and 3 are the reserved ones, and no block count is a fault. -/
theorem capCsdReservedVersionGivesZero : Obligations.CapCsdReservedVersionGivesZero := by
  intro s hversion
  have hreserved : 2 ≤ (sliceValue (wordArray s.w) config.tables.capacity.csdStructure).toNat := by
    rcases hversion with h2 | h3
    · rw [h2]; decide
    · rw [h3]; decide
  refine ⟨?answers_zero, Response.faultBit_blocks _, Response.causeBits_blocks _⟩
  case answers_zero =>
    rw [exec_capcsd, csdBlocks_of_reserved config s.w hreserved]
    rfl

/-- The sector count as a word: the four bytes side by side, byte 215 at the top (43_capacity.md R155). -/
def sectorWord (x : Memory) : Word := x.read 215 ++ x.read 214 ++ x.read 213 ++ x.read 212

/-- The bytes side by side are the little-endian sum, which therefore fits 32 bits. -/
theorem sectorWord_toNat (x : Memory) :
    (sectorWord x).toNat = (x.read 212).toNat + (x.read 213).toNat * 2 ^ 8 + (x.read 214).toNat * 2 ^ 16
      + (x.read 215).toNat * 2 ^ 24 := by
  rw [sectorWord, toNat_append_eq_add, toNat_append_eq_add, toNat_append_eq_add]
  omega

/-- `R[7:0] = X[212]`. -/
theorem sectorWord_byte0 (x : Memory) : (sectorWord x).extractLsb' 0 8 = x.read 212 :=
  BitVec.extractLsb'_append_eq_right

/-- `R[15:8] = X[213]`. -/
theorem sectorWord_byte1 (x : Memory) : (sectorWord x).extractLsb' 8 8 = x.read 213 := by
  rw [sectorWord, BitVec.extractLsb'_append_eq_of_le (by decide)]
  exact BitVec.extractLsb'_append_eq_right

/-- `R[23:16] = X[214]`. -/
theorem sectorWord_byte2 (x : Memory) : (sectorWord x).extractLsb' 16 8 = x.read 214 := by
  rw [sectorWord, BitVec.extractLsb'_append_eq_of_le (by decide), BitVec.extractLsb'_append_eq_of_le (by decide)]
  exact BitVec.extractLsb'_append_eq_right

/-- `R[31:24] = X[215]`. -/
theorem sectorWord_byte3 (x : Memory) : (sectorWord x).extractLsb' 24 8 = x.read 215 := by
  rw [sectorWord, BitVec.extractLsb'_append_eq_of_le (by decide), BitVec.extractLsb'_append_eq_of_le (by decide)]
  exact BitVec.extractLsb'_append_eq_left

/-- What `CAPEXT` does at any parameters: it answers the sector count, extended or cut to the width of the port. -/
theorem capExtWith_eq_sectorWord (cfg : Config) (s : State) :
    capExtWith cfg s
      = .next (s.answer (.blocks { width := cfg.capWidth, value := (sectorWord s.x).setWidth cfg.capWidth })) := by
  rw [capExtWith_eq, ← sectorWord_toNat, blocksResponse, BitVec.ofNat_toNat]

/-- What `CAPEXT` does on this hardware, whose port is as wide as the sector count. -/
theorem exec_capext (s : State) :
    exec .capext s = .next (s.answer (.blocks { width := 32, value := sectorWord s.x })) := by
  have h : exec .capext s = .next (s.answer (.blocks { width := 32, value := (sectorWord s.x).setWidth 32 })) :=
    capExtWith_eq_sectorWord config s
  rwa [BitVec.setWidth_eq] at h

/-- Settles O40: `CAPEXT` answers `sectorWord`, whose number and bytes are known; the example is one such word. -/
theorem capExtSectorCount : Obligations.CapExtSectorCount := by
  refine ⟨fun s => ?every_state, fun s h212 h213 h214 h215 => ?spec_example, by decide, by decide⟩
  case every_state =>
    exact ⟨sectorWord s.x, exec_capext s, sectorWord_toNat s.x, sectorWord_byte0 s.x, sectorWord_byte1 s.x,
      sectorWord_byte2 s.x, sectorWord_byte3 s.x, Response.faultBit_blocks _, Response.causeBits_blocks _,
      capExtWith_eq_sectorWord { config with capWidth := 33 } s⟩
  case spec_example =>
    have hword : sectorWord s.x = 15269888#32 := by
      rw [sectorWord, h212, h213, h214, h215]
      rfl
    rw [exec_capext, hword]
    rfl

end Sys2Proof.Machine
end

section
/-! PROOFS. Decoding and encoding undo each other (30_encoding.md part 1). -/

namespace Sys2Proof

/-- Only the operands of the first row can be too wide. -/
theorem Instr.wellFormed_ofOp {endBit startBit : Nat} (he : endBit < 128) (hs : startBit < 128) (k : Fin 8) :
    (Instr.ofOp endBit startBit k).wellFormed = true := by
  fin_cases k
  · simp [Instr.ofOp, Instr.wellFormed, he, hs]
  all_goals rfl

/-- No command word holds an operand of more than 7 bits. -/
theorem decodeCmd_wellFormed (c : Command) : (decodeCmd c).wellFormed = true := by
  rw [decodeCmd_eq_ofOp]
  exact Instr.wellFormed_ofOp (BitVec.isLt _) (BitVec.isLt _) _

/-- Settles O1: a step is `exec` of the decoded command by definition, and every decoded command is well formed. -/
theorem stepRunsDecodedCommand : Obligations.StepRunsDecodedCommand := fun s =>
  ⟨decodeCmd_wellFormed s.cmd, Machine.step_of_decodeCmd rfl⟩

/-- Settles O2: each word is decoded by evaluation. -/
theorem specWordsDecode : Obligations.SpecWordsDecode := by
  unfold Obligations.SpecWordsDecode
  decide

/-- The fields of an encoded instruction, for every operation (the model's own laws, one per row of the opcode table). -/
theorem encode_fields (i : Instr) : Laws.OpSelect.Statement i := by
  cases i with
  | slice endBit startBit => exact Laws.OpSelect.slice endBit startBit
  | cidsd => exact Laws.OpSelect.cidsd
  | cidmmc => exact Laws.OpSelect.cidmmc
  | csdmmc => exact Laws.OpSelect.csdmmc
  | csdsd10 => exact Laws.OpSelect.csdsd10
  | csdsd20 => exact Laws.OpSelect.csdsd20
  | capcsd => exact Laws.OpSelect.capcsd
  | capext => exact Laws.OpSelect.capext

/-- The decoder reads back what the encoder wrote: `op` selects the row, and a `SLICE` gets its two operands. -/
theorem decodeCmd_encode {i : Instr} (h : i.wellFormed = true) : decodeCmd (encode i) = i := by
  obtain ⟨hop, hoperands⟩ := encode_fields i h
  have hrow : ∀ k : Fin 8, k = i.op → (opField (encode i)).toFin = k := fun k hk => Fin.ext (hop.trans hk.symm)
  rw [decodeCmd_eq_ofOp]
  cases i with
  | slice endBit startBit =>
    obtain ⟨hend, hstart⟩ := hoperands
    rw [hrow 0 rfl, hend, hstart]
    rfl
  | cidsd => rw [hrow 1 rfl]; rfl
  | cidmmc => rw [hrow 2 rfl]; rfl
  | csdmmc => rw [hrow 3 rfl]; rfl
  | csdsd10 => rw [hrow 4 rfl]; rfl
  | csdsd20 => rw [hrow 5 rfl]; rfl
  | capcsd => rw [hrow 6 rfl]; rfl
  | capext => rw [hrow 7 rfl]; rfl

/-- A command word survives the way through a table row of 17 bits or more. -/
theorem decodeTableWord_toNat {nbits : Nat} (h : 17 ≤ nbits) (c : Command) :
    decodeTableWord nbits c.toNat = some (decodeCmd c) := by
  have hlt : c.toNat < 2 ^ nbits := c.isLt.trans_le (Nat.pow_le_pow_right (by decide) h)
  rw [decodeTableWord, Nat.mod_eq_of_lt hlt, decodeBits_toNat]

/-- Settles O3: the round trip, also through a table row of 24 bits. -/
theorem decodeEncodeRoundTrip : Obligations.DecodeEncodeRoundTrip := fun i h =>
  ⟨decodeCmd_encode h, by rw [decodeTableWord_toNat (by decide), decodeCmd_encode h]⟩

/-- A command word is its three fields side by side (30_encoding.md R60). -/
theorem toNat_eq_fields (c : Command) :
    c.toNat = (opField c).toNat * 2 ^ 14 + (endField c * 2 ^ 7 + startField c) := by
  rw [endField_eq, startField_eq, opField, BitVec.extractLsb'_toNat, Nat.shiftRight_eq_div_pow]
  have hc : c.toNat < 2 ^ 17 := c.isLt
  omega

/-- Encoding a row of the opcode map puts its number into `op`; only row 0 has operands. -/
theorem encode_ofOp (endBit startBit : Nat) (k : Fin 8) :
    encode (Instr.ofOp endBit startBit k)
      = BitVec.ofNat 17 (k * 2 ^ 14 + if k = 0 then endBit * 2 ^ 7 + startBit else 0) := by
  fin_cases k <;> rfl

/-- The operation is `SLICE` exactly where the mask of the opcode map leaves 0. -/
theorem and_opMask_eq_zero_iff (c : Command) : c &&& 0x1C000#17 = 0#17 ↔ (opField c).toFin = 0 := by
  rw [and_opMask, show (0#17 : Command) = 0#3 ++ 0#14 from rfl, BitVec.append_left_inj, ← BitVec.toFin_inj]
  rfl

/-- Settles O4: the encoder writes back `op`, and the operand fields exactly for `SLICE`. -/
theorem encodeDecodeKeepsReadBits : Obligations.EncodeDecodeKeepsReadBits := by
  intro c
  rw [decodeCmd_eq_ofOp, encode_ofOp]
  split
  case isTrue hslice =>
    rw [if_pos ((and_opMask_eq_zero_iff c).mpr hslice)]
    exact (congrArg (BitVec.ofNat 17) (toNat_eq_fields c)).symm.trans (by simp)
  case isFalse hother =>
    rw [if_neg (mt (and_opMask_eq_zero_iff c).mp hother), and_opMask_eq_ofNat, Nat.add_zero, BitVec.val_toFin]

/-- Outside row 0 the map does not look at the operands. -/
theorem Instr.ofOp_operands_irrelevant (endBit startBit endBit' startBit' : Nat) {k : Fin 8} (h : k ≠ 0) :
    Instr.ofOp endBit startBit k = Instr.ofOp endBit' startBit' k := by
  fin_cases k
  · exact absurd rfl h
  all_goals rfl

/-- Bits 13:0 have no effect on what operations 1 to 7 decode to (30_encoding.md R65 b). -/
theorem decodeCmd_congr_of_and_opMask {c d : Command} (h : c &&& 0x1C000#17 = d &&& 0x1C000#17)
    (hne : c &&& 0x1C000#17 ≠ 0#17) : decodeCmd c = decodeCmd d := by
  have hop : opField c = opField d := by rwa [and_opMask, and_opMask, BitVec.append_left_inj] at h
  rw [decodeCmd_eq_ofOp, decodeCmd_eq_ofOp, ← hop]
  exact Instr.ofOp_operands_irrelevant _ _ _ _ (mt (and_opMask_eq_zero_iff c).mpr hne)

end Sys2Proof
end

section
/-! PROOFS. The response of every operation, written out as a function of the inputs (10_state.md R20, R33), and what follows from
that alone: the fault, the two address spaces, the outputs after any drive, programs. -/

namespace Sys2Proof.Machine

/-- The response of `SLICE`: the fault of the precondition that fails, or the extractor's value. -/
def sliceReply (endBit startBit : Nat) (w : Words) : Response :=
  match sliceCause 4 endBit startBit with
  | some c => .fault c
  | none => .slice (extract (wordArray w) endBit startBit)

/-- The response of an operation to the words and the Extended CSD bytes presented with it. -/
def reply (w : Words) (x : Memory) : Instr → Response
  | .slice endBit startBit => sliceReply endBit startBit w
  | .cidsd => .cidSd (cidRecordOf epochSd pnmLenSd layoutCidSd (wordArray w))
  | .cidmmc => .cidMmc (cidRecordOf epochMmc pnmLenMmc layoutCidMmc (wordArray w))
  | .csdmmc => .csdMmc (csdRecordOf layoutCsdMmc (wordArray w))
  | .csdsd10 => .csdSd10 (csdRecordOf layoutCsdSd10 (wordArray w))
  | .csdsd20 => .csdSd20 (csdRecordOf layoutCsdSd20 (wordArray w))
  | .capcsd => .blocks { width := 32, value := BitVec.ofNat 32 (csdBlocks config w) }
  | .capext => .blocks { width := 32, value := sectorWord x }

/-- The response of the block to a request: that of the operation its command word decodes to. -/
def requestReply (q : Request) : Response := reply q.w q.x (decodeCmd q.cmd)

/-- What `SLICE` does: it answers `sliceReply`, and changes nothing but the outputs. -/
theorem exec_slice (endBit startBit : Nat) (s : State) :
    exec (.slice endBit startBit) s = .next (s.answer (sliceReply endBit startBit s.w)) := by
  change sliceWith config endBit startBit s = _
  cases hc : sliceCause 4 endBit startBit with
  | none =>
    rw [sliceWith_of_legal _ _ _ _ ((sliceCause_eq_none_iff 4 endBit startBit).mp hc), sliceReply, hc]
  | some c =>
    rw [sliceWith_of_cause _ _ _ _ c hc, sliceReply, hc]
    rfl

/-- What every operation does: it answers its reply, and changes nothing but the outputs. -/
theorem exec_eq_reply (i : Instr) (s : State) : exec i s = .next (s.answer (reply s.w s.x i)) := by
  cases i with
  | slice endBit startBit => exact exec_slice endBit startBit s
  | capext => exact exec_capext s
  | cidsd | cidmmc | csdmmc | csdsd10 | csdsd20 | capcsd => rfl

/-- What a step does: it answers the request on the inputs, and changes nothing but the outputs. -/
theorem step_eq_reply (s : State) : step s = .next (s.answer (requestReply s.request)) :=
  exec_eq_reply (decodeCmd s.cmd) s

/-- Letting the outputs follow the inputs puts the reply on them. -/
theorem settle_eq_reply (s : State) : s.settle = s.answer (requestReply s.request) := by
  have h := (step_eq_settle s).symm.trans (step_eq_reply s)
  exact Host.Outcome.next.inj h

/-- The block as a function from request to response is total. -/
theorem respond_eq_reply (q : Request) : respond q = some (requestReply q) := by
  have h : operate (State.reset.setInputs q) = _ := step_eq_reply (State.reset.setInputs q)
  rw [respond, h]
  rfl

/-- A presented request leaves its inputs and its reply, whatever the state was. -/
theorem present_eq_reply (s : State) (q : Request) : s.present q = (s.setInputs q).answer (requestReply q) :=
  settle_eq_reply (s.setInputs q)

/-- A step changes nothing after the environment has presented a request. -/
theorem step_present (s : State) (q : Request) : step (s.present q) = .next (s.present q) := by
  rw [step_eq_reply, State.present_request, present_eq_reply, State.answer_answer]

/-! ## The request is all that a response depends on -/

/-- Settles O45: equal requests have equal replies. -/
theorem responseDependsOnRequestOnly : Obligations.ResponseDependsOnRequestOnly := by
  intro s t hreq
  refine ⟨requestReply s.request, respond_eq_reply _, step_eq_reply s, ?_⟩
  rw [hreq]
  exact step_eq_reply t

/-- Settles O52: presenting a request leaves the reply on the outputs. -/
theorem outputsFollowPresentedInputs : Obligations.OutputsFollowPresentedInputs := fun s q =>
  ⟨requestReply q, respond_eq_reply q, present_eq_reply s q, step_present s q⟩

/-- Settles O6: two command words that differ in don't-care bits decode to one operation, which has one reply. -/
theorem dontCareBitsGiveSameResponse : Obligations.DontCareBitsGiveSameResponse := by
  intro s c d hmask hne
  have hdecode : decodeCmd c = decodeCmd d := decodeCmd_congr_of_and_opMask hmask hne
  have hdrive : ∀ e, step (s.driveCmd e) = .next { s with cmd := e, response := reply s.w s.x (decodeCmd e) } :=
    fun e => (step_present s _).trans (congrArg Host.Outcome.next (present_eq_reply s _))
  exact ⟨reply s.w s.x (decodeCmd c), hdrive c, by rw [hdecode]; exact hdrive d⟩

/-- Every operation but `CAPEXT` has a reply that does not look at the Extended CSD. -/
theorem reply_memory_irrelevant {i : Instr} (hi : i ≠ .capext) (w : Words) (x y : Memory) :
    reply w x i = reply w y i := by
  cases i with
  | capext => exact absurd rfl hi
  | slice | cidsd | cidmmc | csdmmc | csdsd10 | csdsd20 | capcsd => rfl

/-- The sector count looks at the bytes 212 to 215 only (20_memory.md R45). -/
theorem sectorWord_congr {x y : Memory} (h : ∀ a, 212 ≤ a → a ≤ 215 → x.read a = y.read a) :
    sectorWord x = sectorWord y := by
  rw [sectorWord, sectorWord, h 212 (by decide) (by decide), h 213 (by decide) (by decide), h 214 (by decide) (by decide),
    h 215 (by decide) (by decide)]

/-- Settles O41: `CAPEXT` replies with `sectorWord`, and every other reply is a function of the words. -/
theorem readsOfTheTwoSpaces : Obligations.ReadsOfTheTwoSpaces := by
  intro s t
  refine ⟨fun hbytes => ?capext, fun i hi hw => ?others⟩
  case capext =>
    refine ⟨_, exec_capext s, ?_⟩
    rw [sectorWord_congr hbytes]
    exact exec_capext t
  case others =>
    refine ⟨_, exec_eq_reply i s, ?_⟩
    rw [hw, reply_memory_irrelevant hi t.w s.x t.x]
    exact exec_eq_reply i t

/-! ## The fault -/

/-- `SLICE` has a value exactly where its precondition holds. -/
theorem sliceReply_of_legal {endBit startBit : Nat} (h : sliceLegal endBit startBit) (w : Words) :
    sliceReply endBit startBit w = .slice (extract (wordArray w) endBit startBit) := by
  rw [sliceReply, (sliceCause_eq_none_iff 4 endBit startBit).mpr h]

/-- `end < start` is tested first (60_exceptions.md R174). -/
theorem sliceCause_of_lt {endBit startBit : Nat} (n : Nat) (h : endBit < startBit) :
    sliceCause n endBit startBit = some .endLtStart := by
  rw [sliceCause, if_pos h]

/-- The span is tested second (60_exceptions.md R174). -/
theorem sliceCause_of_span {endBit startBit : Nat} (n : Nat) (hle : startBit ≤ endBit) (h : 32 ≤ endBit - startBit) :
    sliceCause n endBit startBit = some .spanGe32 := by
  rw [sliceCause, if_neg (Nat.not_lt.mpr hle), if_pos h]

/-- The range of the index is tested last (60_exceptions.md R172, R174). -/
theorem sliceCause_of_range {endBit startBit n : Nat} (hle : startBit ≤ endBit) (hspan : endBit - startBit < 32)
    (h : 32 * n ≤ endBit) : sliceCause n endBit startBit = some .indexRange := by
  rw [sliceCause, if_neg (Nat.not_lt.mpr hle), if_neg (Nat.not_le.mpr hspan), if_pos h]

/-- `SLICE` answers the fault of the precondition that fails. -/
theorem exec_slice_of_cause {endBit startBit : Nat} {c : Cause} (s : State) (h : sliceCause 4 endBit startBit = some c) :
    exec (.slice endBit startBit) s = .next (s.answer (.fault c)) := by
  rw [exec_slice, sliceReply, h]

/-- Settles O9: each violated precondition is the cause tested for it. -/
theorem sliceViolationTakesFault : Obligations.SliceViolationTakesFault := fun s _ _ _ _ =>
  ⟨fun hlt => exec_slice_of_cause s (sliceCause_of_lt 4 hlt),
    fun hle hspan => exec_slice_of_cause s (sliceCause_of_span 4 hle hspan),
    rfl, rfl, rfl, rfl, fun _ => ⟨rfl, rfl, rfl⟩⟩

/-- Settles O17: the four clauses are the four outcomes of the tests, in their order. -/
theorem genericExtractorTestsInOrder : Obligations.GenericExtractorTestsInOrder := by
  intro ws endBit startBit
  have hcause : ∀ {c}, sliceCause ws.length endBit startBit = some c → sliceWords ws endBit startBit = .error c :=
    fun h => by rw [sliceWords, h]
  refine ⟨fun hlt => hcause (sliceCause_of_lt _ hlt), fun hle hspan => hcause (sliceCause_of_span _ hle hspan),
    fun hle hspan hrange => hcause (sliceCause_of_range hle hspan hrange), fun hle hspan hrange => ?legal, rfl, rfl, rfl⟩
  case legal => rw [sliceWords, (sliceCause_eq_none_iff _ _ _).mpr ⟨hle, hspan, hrange⟩]

/-- Settles O18: without the fault, both branches of the extractor answer a value. -/
theorem uncheckedExtractorGivesSomeValue : Obligations.UncheckedExtractorGivesSomeValue := by
  intro cfg s endBit startBit hstrict
  cases hc : sliceCause 4 endBit startBit with
  | none =>
    exact ⟨_, sliceWith_of_legal cfg _ _ s ((sliceCause_eq_none_iff 4 endBit startBit).mp hc), fun _ _ _ => rfl⟩
  | some c =>
    refine ⟨Config.uncheckedSlice endBit startBit s.w, ?_, fun hle hspan hend => ?no_cause⟩
    · rw [sliceWith_of_cause cfg _ _ s c hc, hstrict]
      rfl
    case no_cause =>
      rw [(sliceCause_eq_none_iff 4 endBit startBit).mpr ⟨hle, hspan, hend⟩] at hc
      exact absurd hc (by simp)

/-- A reply is a fault for nothing but a `SLICE`, and for that exactly with the cause its operands have. -/
theorem reply_eq_fault_iff (w : Words) (x : Memory) (i : Instr) (c : Cause) :
    reply w x i = .fault c ↔ ∃ endBit startBit, i = .slice endBit startBit ∧ sliceCause 4 endBit startBit = some c := by
  cases i with
  | slice endBit startBit =>
    cases hc : sliceCause 4 endBit startBit <;> simp [reply, sliceReply, hc]
  | cidsd | cidmmc | csdmmc | csdsd10 | csdsd20 | capcsd | capext => simp [reply]

/-- The operands of a decoded `SLICE` are bit indices of the register. -/
theorem decodeCmd_slice_lt {c : Command} {endBit startBit : Nat} (h : decodeCmd c = .slice endBit startBit) :
    endBit < 128 ∧ startBit < 128 := by
  have hwf := decodeCmd_wellFormed c
  rw [h] at hwf
  simpa [Instr.wellFormed] using hwf

/-- Inside the register the operands are at fault exactly by their order or their span. -/
theorem exists_sliceCause_iff {endBit startBit : Nat} (hend : endBit < 128) :
    (∃ c, sliceCause 4 endBit startBit = some c) ↔ endBit < startBit ∨ 32 ≤ endBit - startBit := by
  rw [← Option.isSome_iff_exists, ← Option.ne_none_iff_isSome, Ne, sliceCause_eq_none_iff]
  omega

/-- Inside the register the reserved cause is not raised (60_exceptions.md R171). -/
theorem sliceCause_ne_indexRange {endBit startBit : Nat} (hend : endBit < 128) :
    sliceCause 4 endBit startBit ≠ some .indexRange := by
  unfold sliceCause
  split
  · simp
  · split
    · simp
    · rw [if_neg (by omega)]
      simp

/-- No command word takes the reserved cause. -/
theorem requestReply_ne_indexRange (q : Request) : requestReply q ≠ .fault .indexRange := by
  intro h
  obtain ⟨endBit, startBit, hdecode, hcause⟩ := (reply_eq_fault_iff q.w q.x _ _).mp h
  exact sliceCause_ne_indexRange (decodeCmd_slice_lt hdecode).1 hcause

/-- A request is answered with a fault exactly when it is an illegal `SLICE`. -/
theorem faultBit_requestReply_iff (q : Request) :
    (requestReply q).faultBit = 1#1 ↔
      ∃ endBit startBit, decodeCmd q.cmd = .slice endBit startBit ∧ (endBit < startBit ∨ 32 ≤ endBit - startBit) := by
  rw [Response.faultBit_eq_one_iff]
  constructor
  · rintro ⟨c, hc⟩
    obtain ⟨endBit, startBit, hdecode, hcause⟩ := (reply_eq_fault_iff q.w q.x _ _).mp hc
    exact ⟨endBit, startBit, hdecode, (exists_sliceCause_iff (decodeCmd_slice_lt hdecode).1).mp ⟨c, hcause⟩⟩
  · rintro ⟨endBit, startBit, hdecode, hillegal⟩
    obtain ⟨c, hcause⟩ := (exists_sliceCause_iff (decodeCmd_slice_lt hdecode).1).mpr hillegal
    exact ⟨c, (reply_eq_fault_iff q.w q.x _ _).mpr ⟨endBit, startBit, hdecode, hcause⟩⟩

/-- The code 3 is the reserved cause's alone. -/
theorem Response.causeBits_ne_three {r : Response} (h : r ≠ .fault .indexRange) : r.causeBits ≠ 3#2 := by
  cases r with
  | fault c =>
    intro hcode
    exact h (congrArg Response.fault (Cause.code_injective c .indexRange hcode))
  | slice | cidSd | cidMmc | csdMmc | csdSd10 | csdSd20 | blocks => simp [Response.causeBits]

/-- Settles O19: every step answers its request's reply, whose fault is known. -/
theorem onlyIllegalSliceFaults : Obligations.OnlyIllegalSliceFaults := fun s =>
  ⟨requestReply s.request, step_eq_reply s, faultBit_requestReply_iff s.request,
    (Response.causeBits_eq_zero_iff _).symm, Response.causeBits_ne_three (requestReply_ne_indexRange _)⟩

/-! ## Programs -/

/-- A program's responses are the replies to its requests, from every state. -/
theorem runProgram_eq_replies (s : State) (qs : List Request) : runProgram s qs = some (qs.map requestReply) := by
  induction qs generalizing s with
  | nil => rfl
  | cons q rest ih =>
    rw [runProgram, step_present]
    simp only [ih, present_eq_reply, State.answer_response, Option.map_some, List.map_cons]

/-- Settles O46: the run answers each request with its own reply. -/
theorem programIsListOfIndependentResponses : Obligations.ProgramIsListOfIndependentResponses := by
  intro s qs
  refine ⟨qs.map requestReply, runProgram_eq_replies s qs, ?_⟩
  rw [List.map_map]
  exact List.map_congr_left fun q _ => respond_eq_reply q

/-- A list beside its image is the list of pairs. -/
theorem zip_map_self {α β : Type} (f : α → β) (l : List α) : l.zip (l.map f) = l.map fun a => (a, f a) := by
  simpa using List.zip_map' (f := id) (g := f) (l := l)

/-- Settles O47: the pairs of request and reply are a map over the requests, so they are permuted with them. -/
theorem programOrderIsIrrelevant : Obligations.ProgramOrderIsIrrelevant := by
  intro s t ps qs hperm
  refine ⟨_, _, runProgram_eq_replies s ps, runProgram_eq_replies t qs, ?_⟩
  rw [zip_map_self, zip_map_self]
  exact hperm.map _

/-- A request gets a value exactly when its instruction is legal. -/
theorem good_requestReply_iff (q : Request) : (requestReply q).good ↔ instrLegal (decodeCmd q.cmd) := by
  cases hdecode : decodeCmd q.cmd with
  | slice endBit startBit =>
    cases hc : sliceCause 4 endBit startBit with
    | none =>
      have hlegal : sliceLegal endBit startBit := (sliceCause_eq_none_iff 4 _ _).mp hc
      simp [requestReply, hdecode, reply, sliceReply_of_legal hlegal, Response.good, instrLegal, hlegal]
    | some c =>
      have hillegal : ¬ sliceLegal endBit startBit := fun h => by
        rw [(sliceCause_eq_none_iff 4 _ _).mpr h] at hc
        exact absurd hc (by simp)
      simp [requestReply, hdecode, reply, sliceReply, hc, Response.good, instrLegal, hillegal]
  | cidsd | cidmmc | csdmmc | csdsd10 | csdsd20 | capcsd | capext =>
    simp [requestReply, hdecode, reply, Response.good, Response.faultBit, instrLegal]

/-- Settles O48: the responses of a run are the replies, so it is safe exactly when each of them is good. -/
theorem runIsSafeExactlyForLegalRequests : Obligations.RunIsSafeExactlyForLegalRequests := by
  intro s qs
  simp [runSafe, runProgram_eq_replies, good_requestReply_iff]

/-! ## The invariant of the outputs -/

/-- Every reply to a command word has the ports and widths of its operation. -/
theorem requestReply_shaped (q : Request) : (requestReply q).shaped := by
  have hreserved := requestReply_ne_indexRange q
  rw [requestReply] at hreserved ⊢
  cases hdecode : decodeCmd q.cmd with
  | slice endBit startBit =>
    rw [hdecode] at hreserved
    rw [reply, sliceReply] at hreserved ⊢
    split
    · next c hc =>
      rw [hc] at hreserved
      exact fun h => hreserved (congrArg Response.fault h)
    · trivial
  | cidsd | cidmmc | csdmmc | csdsd10 | csdsd20 | capcsd | capext => rfl

/-- A canonical `X` is all that the invariant asks of the inputs: it holds once the outputs are the reply. -/
theorem inv_answer_reply {s : State} (hx : s.x.wf = true) : (s.answer (requestReply s.request)).Inv :=
  ⟨hx, requestReply_shaped _, respond_eq_reply _⟩

/-- Settles O44: a step answers the reply, which establishes the invariant. -/
theorem stepKeepsOutputShape : Obligations.StepKeepsOutputShape := by
  intro s t hx hstep
  rw [step_eq_reply] at hstep
  rw [← Host.Outcome.next.inj hstep]
  exact inv_answer_reply hx

/-- Presenting a request with a canonical `X` establishes the invariant. -/
theorem inv_present (s : State) {q : Request} (hx : q.x.wf = true) : (s.present q).Inv := by
  rw [present_eq_reply]
  exact inv_answer_reply (s := s.setInputs q) hx

/-- Settles O53: every drive is a presented request, and a driven byte keeps `X` canonical. -/
theorem environmentKeepsInvariant : Obligations.EnvironmentKeepsInvariant := by
  intro s hx
  refine ⟨fun c => ⟨inv_present s hx, rfl, rfl, rfl⟩, fun w => ⟨inv_present s hx, rfl, rfl, rfl⟩, ?byte,
    fun n w => inv_present s hx, fun q hq => inv_present s hq⟩
  case byte =>
    intro addr v t hdrive
    obtain ⟨haddr, rfl⟩ := (State.driveX_eq_ok_iff s t addr v).mp hdrive
    exact ⟨inv_present s (Memory.wf_write s.x addr v haddr hx), rfl, rfl⟩

/-- Settles O43: the reset outputs are the reply to the reset inputs, and `X` is canonical at reset. -/
theorem resetStateMeetsInvariant : Obligations.ResetStateMeetsInvariant :=
  inv_answer_reply State.reset_memory_wf

/-- Settles O42: the reset outputs are the reply, so a step keeps them. -/
theorem resetStateAnswersItsInputs : Obligations.ResetStateAnswersItsInputs :=
  ⟨respond_eq_reply _, step_eq_reply State.reset, rfl, rfl, fun _ => rfl, rfl⟩

/-! ## The Extended CSD space -/

/-- Settles O49: driving a byte writes it, and the outputs follow; outside the space both accesses fault. -/
theorem drivenByteReadsBack : Obligations.DrivenByteReadsBack := by
  intro s addr v hx
  refine ⟨fun haddr => ?inside, fun haddr => if_neg (Nat.not_lt.mpr haddr), fun n hn => ?read_inside,
    fun n hn => if_neg (Nat.not_le.mpr hn)⟩
  case inside =>
    refine ⟨_, (State.driveX_eq_ok_iff s _ addr v).mpr ⟨haddr, rfl⟩, Memory.wf_write s.x addr v haddr hx,
      Memory.read_write_same s.x addr v hx, fun a ha => Memory.read_write_other s.x v ha, rfl, rfl, ?_⟩
    rw [State.present_request, present_eq_reply]
    exact respond_eq_reply _
  case read_inside => exact ⟨_, (memRead_eq_ok_iff s.x addr n _).mpr ⟨hn, rfl⟩⟩

/-- The byte at the head of a canonical memory is there, and is none that an unlisted address reads as. -/
theorem Memory.read_head_ne_unlisted {low a : Nat} {b : Byte} {m : Memory}
    (h : Memory.wfFrom low ((a, b) :: m) = true) : Memory.read ((a, b) :: m) a ≠ Memory.unlisted := by
  rw [Memory.read, if_pos rfl]
  exact ((Memory.wfFrom_cons low a b m).mp h).2.2.1

/-- Canonical memories that read alike do not begin one after the other. -/
theorem Memory.head_le_of_read_eq {low a c : Nat} {b d : Byte} {m k : Memory}
    (hm : Memory.wfFrom low ((a, b) :: m) = true) (hk : Memory.wfFrom low ((c, d) :: k) = true)
    (h : ∀ x < extLen, Memory.read ((a, b) :: m) x = Memory.read ((c, d) :: k) x) : c ≤ a := by
  by_contra hlt
  obtain ⟨-, ha, -, -⟩ := (Memory.wfFrom_cons low a b m).mp hm
  obtain ⟨-, hk'⟩ := (Memory.wfFrom_cons low c d k).mp hk
  have hkc : Memory.wfFrom c ((c, d) :: k) = true := (Memory.wfFrom_cons c c d k).mpr ⟨le_rfl, hk'⟩
  exact Memory.read_head_ne_unlisted hm ((h a ha).trans (Memory.read_of_lt (by omega) hkc))

/-- A canonical memory is determined by the bytes it reads. -/
theorem Memory.eq_of_read_eq {low : Nat} {m k : Memory} (hm : Memory.wfFrom low m = true)
    (hk : Memory.wfFrom low k = true) (h : ∀ x < extLen, m.read x = k.read x) : m = k := by
  induction m generalizing low k with
  | nil =>
    cases k with
    | nil => rfl
    | cons f k =>
      obtain ⟨-, hc, -⟩ := (Memory.wfFrom_cons low f.1 f.2 k).mp hk
      exact absurd (h f.1 hc).symm (Memory.read_head_ne_unlisted hk)
  | cons e m ih =>
    obtain ⟨a, b⟩ := e
    obtain ⟨-, ha, -, hm'⟩ := (Memory.wfFrom_cons low a b m).mp hm
    cases k with
    | nil => exact absurd (h a ha) (Memory.read_head_ne_unlisted hm)
    | cons f k =>
      obtain ⟨c, d⟩ := f
      obtain rfl : a = c :=
        (Memory.head_le_of_read_eq hk hm fun x hx => (h x hx).symm).antisymm (Memory.head_le_of_read_eq hm hk h)
      obtain ⟨-, -, -, hk'⟩ := (Memory.wfFrom_cons low a d k).mp hk
      have hbyte : b = d := by simpa [Memory.read] using h a ha
      have htail : m = k := ih hm' hk' fun x hx => ?tail_bytes
      · rw [hbyte, htail]
      case tail_bytes =>
        by_cases hax : a < x
        · simpa [Memory.read, hax.ne] using h x hx
        · rw [Memory.read_of_lt (by omega) hm', Memory.read_of_lt (by omega) hk']

/-- Settles O50: the canonical form from address 0 is determined by its bytes. -/
theorem equalBytesAreEqualMemories : Obligations.EqualBytesAreEqualMemories := fun _ _ hm hk h =>
  Memory.eq_of_read_eq hm hk h

end Sys2Proof.Machine
end

section
/-! PROOFS. The laws of the extractor: the two-piece algorithm, the round trips and the splitting law (40_slice.md R92, R96). -/

namespace Sys2Proof.Machine

/-! ## The two-piece algorithm -/

/-- The mask of the low `k` bits, bit by bit. -/
theorem lowMask_getLsbD (k i : Nat) :
    (BitVec.ofNat 32 (2 ^ k - 1)).getLsbD i = (decide (i < 32) && decide (i < k)) := by
  rw [BitVec.getLsbD_ofNat, Nat.testBit_two_pow_sub_one]

/-- Over a slice inside one word the algorithm answers that word's bits (40_slice.md R92, one piece). -/
theorem extractTwoPiece_getLsbD_one {ws : List Word} {endBit startBit i : Nat} (hword : startBit / 32 = endBit / 32) :
    (extractTwoPiece ws endBit startBit).getLsbD i
      = (decide (startBit % 32 + i ≤ endBit % 32) && (wordAt ws (startBit / 32)).getLsbD (startBit % 32 + i)) := by
  simp only [extractTwoPiece, if_pos hword, BitVec.getLsbD_ushiftRight, BitVec.getLsbD_and, lowMask_getLsbD]
  by_cases h : startBit % 32 + i ≤ endBit % 32
  · have h32 : startBit % 32 + i < 32 := by omega
    simp [h, h32, Nat.lt_succ_of_le h]
  · simp [h, Nat.not_lt.mpr (Nat.lt_of_not_le h)]

/-- Over a slice in two words the algorithm answers the rest of the first word, then the beginning of the last
(40_slice.md R92, two pieces). -/
theorem extractTwoPiece_getLsbD_two {ws : List Word} {endBit startBit i : Nat} (hword : startBit / 32 ≠ endBit / 32)
    (hspan : endBit % 32 < startBit % 32) :
    (extractTwoPiece ws endBit startBit).getLsbD i
      = if startBit % 32 + i < 32 then (wordAt ws (startBit / 32)).getLsbD (startBit % 32 + i)
        else decide (startBit % 32 + i - 32 ≤ endBit % 32)
          && (wordAt ws (endBit / 32)).getLsbD (startBit % 32 + i - 32) := by
  simp only [extractTwoPiece, if_neg hword, BitVec.getLsbD_or, BitVec.getLsbD_ushiftRight, BitVec.getLsbD_shiftLeft,
    BitVec.getLsbD_and, lowMask_getLsbD]
  split
  case isTrue hlow =>
    have hi : i < 32 - startBit % 32 := by omega
    simp [hi]
  case isFalse hhigh =>
    have hi : ¬ i < 32 - startBit % 32 := by omega
    have hsub : i - (32 - startBit % 32) = startBit % 32 + i - 32 := by omega
    rw [BitVec.getLsbD_of_ge _ _ (Nat.le_of_not_lt hhigh), hsub]
    by_cases h : startBit % 32 + i - 32 ≤ endBit % 32
    · have h32 : i < 32 := by omega
      have hlt : startBit % 32 + i - 32 < 32 := by omega
      simp [hi, h, h32, hlt, Nat.lt_succ_of_le h]
    · simp [h, Nat.not_lt.mpr (Nat.lt_of_not_le h)]

/-- A legal slice lies in one word, or in two adjacent words with the end below the start's offset. -/
theorem slice_words_cases {endBit startBit : Nat} (hle : startBit ≤ endBit) (hspan : endBit - startBit < 32) :
    startBit / 32 = endBit / 32 ∨ (startBit / 32 + 1 = endBit / 32 ∧ endBit % 32 < startBit % 32) := by
  omega

/-- The two-word algorithm computes the extractor's contract, bit by bit. -/
theorem extractTwoPiece_eq_extract (ws : List Word) {endBit startBit : Nat} (hle : startBit ≤ endBit)
    (hspan : endBit - startBit < 32) : extractTwoPiece ws endBit startBit = extract ws endBit startBit := by
  apply BitVec.eq_of_getLsbD_eq
  intro i hi
  rw [extract_getLsbD ws endBit startBit i hspan, stream_testBit]
  rcases slice_words_cases hle hspan with hword | ⟨hword, hoffset⟩
  · rw [extractTwoPiece_getLsbD_one hword]
    by_cases hin : i ≤ endBit - startBit
    · have hdiv : (startBit + i) / 32 = startBit / 32 := by omega
      have hmod : (startBit + i) % 32 = startBit % 32 + i := by omega
      have hlow : startBit % 32 + i ≤ endBit % 32 := by omega
      rw [hdiv, hmod, decide_eq_true hin, decide_eq_true hlow]
    · have hlow : ¬ startBit % 32 + i ≤ endBit % 32 := by omega
      rw [decide_eq_false hin, decide_eq_false hlow, Bool.false_and, Bool.false_and]
  · rw [extractTwoPiece_getLsbD_two (by omega) hoffset]
    split
    case isTrue hlow =>
      have hdiv : (startBit + i) / 32 = startBit / 32 := by omega
      have hmod : (startBit + i) % 32 = startBit % 32 + i := by omega
      have hin : i ≤ endBit - startBit := by omega
      rw [hdiv, hmod, decide_eq_true hin, Bool.true_and]
    case isFalse hhigh =>
      have hdiv : (startBit + i) / 32 = endBit / 32 := by omega
      have hmod : (startBit + i) % 32 = startBit % 32 + i - 32 := by omega
      have hin : i ≤ endBit - startBit ↔ startBit % 32 + i - 32 ≤ endBit % 32 := by omega
      rw [hdiv, hmod, decide_eq_decide.mpr hin]

/-- Settles O10: the agreement, which does not need the range of the index. -/
theorem twoPieceAlgorithmAgrees : Obligations.TwoPieceAlgorithmAgrees := fun ws _ _ hle hspan _ =>
  extractTwoPiece_eq_extract ws hle hspan

/-- The algorithm reads the words of the start and of the end, and no other. -/
theorem extractTwoPiece_congr {ws us : List Word} {endBit startBit : Nat}
    (hstart : wordAt ws (startBit / 32) = wordAt us (startBit / 32))
    (hend : wordAt ws (endBit / 32) = wordAt us (endBit / 32)) :
    extractTwoPiece ws endBit startBit = extractTwoPiece us endBit startBit := by
  rw [extractTwoPiece, hstart, hend, extractTwoPiece]

/-- Settles O11: the extractor agrees with an algorithm that reads the two words. -/
theorem sliceReadsAtMostTwoWords : Obligations.SliceReadsAtMostTwoWords := by
  intro s t endBit startBit hle hspan hend hstartWord hendWord
  have hvalue : extract (wordArray s.w) endBit startBit = extract (wordArray t.w) endBit startBit := by
    rw [← extractTwoPiece_eq_extract _ hle hspan, ← extractTwoPiece_eq_extract _ hle hspan]
    exact extractTwoPiece_congr hstartWord hendWord
  refine ⟨by omega, _, exec_slice_of_legal s ⟨hle, hspan, hend⟩, ?_⟩
  rw [hvalue]
  exact exec_slice_of_legal t ⟨hle, hspan, hend⟩

/-! ## Round trips -/

/-- The bits of a number from `start` on, `width` of them, shifted back, are the number under their mask. -/
theorem slice_mul_eq_and_mask (S start width : Nat) :
    S / 2 ^ start % 2 ^ width * 2 ^ start = S &&& ((2 ^ width - 1) * 2 ^ start) := by
  apply Nat.eq_of_testBit_eq
  intro b
  rw [Nat.testBit_and, Nat.testBit_mul_two_pow, Nat.testBit_mul_two_pow, Nat.testBit_mod_two_pow,
    Nat.testBit_div_two_pow, Nat.testBit_two_pow_sub_one]
  by_cases hb : start ≤ b
  · simp [hb, Bool.and_comm]
  · simp [hb]

/-- Settles O12: the extractor's number, shifted back. -/
theorem slicePutsBitsBackInPlace : Obligations.SlicePutsBitsBackInPlace := by
  intro s endBit startBit hle hspan hend S
  refine ⟨_, exec_slice_of_legal s ⟨hle, hspan, hend⟩, ?_⟩
  rw [extract_toNat _ _ _ hspan, stream_wordArray]
  exact slice_mul_eq_and_mask S startBit (endBit - startBit + 1)

/-- Numbers that share no bit are added by joining their bits. -/
theorem add_eq_or_of_testBit {a b : Nat} (h : ∀ i, a.testBit i = true → b.testBit i = false) : a + b = a ||| b := by
  have hand : BitVec.ofNat (a + b) a &&& BitVec.ofNat (a + b) b = 0#(a + b) := by
    apply BitVec.eq_of_getLsbD_eq
    intro i hi
    cases ha : a.testBit i with
    | false => simp [BitVec.getLsbD_ofNat, ha]
    | true => simp [BitVec.getLsbD_ofNat, h i ha]
  have hor : a ||| b < 2 ^ (a + b) :=
    Nat.or_lt_two_pow ((Nat.le_add_right a b).trans_lt Nat.lt_two_pow_self)
      ((Nat.le_add_left b a).trans_lt Nat.lt_two_pow_self)
  have hadd := congrArg BitVec.toNat (BitVec.add_eq_or_of_and_eq_zero _ _ hand)
  rwa [← BitVec.ofNat_add, ← BitVec.ofNat_or, BitVec.toNat_ofNat, BitVec.toNat_ofNat,
    Nat.mod_eq_of_lt Nat.lt_two_pow_self, Nat.mod_eq_of_lt hor] at hadd

/-- A field's value in its place in the register. -/
def placed (p : FieldSlice × Nat) : Nat := p.2 * 2 ^ p.1.startBit

/-- A value that fits its slice, in its place, has bits inside the slice only. -/
theorem bounds_of_testBit_placed {p : FieldSlice × Nat} (hfit : p.2 < 2 ^ p.1.width) {b : Nat}
    (hb : (placed p).testBit b = true) : p.1.startBit ≤ b ∧ b ≤ p.1.endBit := by
  rw [placed, Nat.testBit_mul_two_pow, Bool.and_eq_true, decide_eq_true_iff] at hb
  obtain ⟨hstart, hbit⟩ := hb
  have hwidth : b - p.1.startBit < p.1.width := by
    by_contra hge
    rw [Nat.testBit_lt_two_pow (hfit.trans_le (Nat.pow_le_pow_right (by decide) (Nat.le_of_not_lt hge)))] at hbit
    exact absurd hbit (by decide)
  have hlegal := p.1.legal
  rw [FieldSlice.width] at hwidth
  omega

/-- Slices that do not overlap share no bit of the register. -/
theorem not_both_of_disjoint {f g : FieldSlice} (h : f.disjoint g = true) {b : Nat}
    (hf : f.startBit ≤ b ∧ b ≤ f.endBit) : ¬ (g.startBit ≤ b ∧ b ≤ g.endBit) := by
  simp only [FieldSlice.disjoint, Bool.or_eq_true, decide_eq_true_iff] at h
  omega

/-- Bit by bit, a register packed from disjoint fields is the join of the fields in their places. -/
theorem testBit_packed (fields : List (FieldSlice × Nat)) (hdisjoint : slicesDisjoint (fields.map Prod.fst) = true)
    (hfit : ∀ p ∈ fields, p.2 < 2 ^ p.1.width) (b : Nat) :
    (fields.map placed).sum.testBit b = fields.any fun p => (placed p).testBit b := by
  induction fields generalizing b with
  | nil => simp
  | cons p ps ih =>
    rw [List.map_cons, slicesDisjoint, Bool.and_eq_true, List.all_eq_true] at hdisjoint
    obtain ⟨hp, hps⟩ := hdisjoint
    have ihps := ih hps fun q hq => hfit q (List.mem_cons_of_mem p hq)
    have hshare : ∀ i, (placed p).testBit i = true → (ps.map placed).sum.testBit i = false := by
      intro i hi
      rw [ihps, List.any_eq_false]
      intro q hq hqi
      exact not_both_of_disjoint (hp q.1 (List.mem_map_of_mem hq))
        (bounds_of_testBit_placed (hfit p List.mem_cons_self) hi)
        (bounds_of_testBit_placed (hfit q (List.mem_cons_of_mem p hq)) hqi)
    rw [List.map_cons, List.sum_cons, add_eq_or_of_testBit hshare, Nat.testBit_or, ihps, List.any_cons]

/-- Inside a field's slice no other field of the register has a bit. -/
theorem any_placed_eq {fields : List (FieldSlice × Nat)} (hdisjoint : slicesDisjoint (fields.map Prod.fst) = true)
    (hfit : ∀ p ∈ fields, p.2 < 2 ^ p.1.width) {p : FieldSlice × Nat} (hp : p ∈ fields) {b : Nat}
    (hb : p.1.startBit ≤ b ∧ b ≤ p.1.endBit) :
    (fields.any fun q => (placed q).testBit b) = (placed p).testBit b := by
  induction fields with
  | nil => exact absurd hp List.not_mem_nil
  | cons q qs ih =>
    rw [List.map_cons, slicesDisjoint, Bool.and_eq_true, List.all_eq_true] at hdisjoint
    obtain ⟨hq, hqs⟩ := hdisjoint
    rw [List.any_cons]
    rcases List.mem_cons.mp hp with rfl | hmem
    · have hrest : (qs.any fun q => (placed q).testBit b) = false := by
        rw [List.any_eq_false]
        intro r hr hrb
        exact not_both_of_disjoint (hq r.1 (List.mem_map_of_mem hr)) hb
          (bounds_of_testBit_placed (hfit r (List.mem_cons_of_mem _ hr)) hrb)
      rw [hrest, Bool.or_false]
    · have hhead : (placed q).testBit b = false := by
        by_contra hqb
        exact not_both_of_disjoint (hq p.1 (List.mem_map_of_mem hmem))
          (bounds_of_testBit_placed (hfit q List.mem_cons_self) (Bool.eq_true_of_not_eq_false hqb)) hb
      rw [hhead, Bool.false_or]
      exact ih hqs (fun r hr => hfit r (List.mem_cons_of_mem q hr)) hmem

/-- The extractor gives back every field of a packed register. -/
theorem extract_packed {ws : List Word} {fields : List (FieldSlice × Nat)}
    (hdisjoint : slicesDisjoint (fields.map Prod.fst) = true) (hfit : ∀ p ∈ fields, p.2 < 2 ^ p.1.width)
    (hstream : stream ws = (fields.map placed).sum) {p : FieldSlice × Nat} (hp : p ∈ fields) :
    extract ws p.1.endBit p.1.startBit = BitVec.ofNat 32 p.2 := by
  apply BitVec.eq_of_getLsbD_eq
  intro i hi
  have hlegal := p.1.legal
  rw [extract_getLsbD _ _ _ _ hlegal.2.1, BitVec.getLsbD_ofNat, decide_eq_true hi, Bool.true_and, hstream,
    testBit_packed fields hdisjoint hfit]
  by_cases hin : i ≤ p.1.endBit - p.1.startBit
  · rw [decide_eq_true hin, Bool.true_and, any_placed_eq hdisjoint hfit hp ⟨by omega, by omega⟩, placed,
      Nat.testBit_mul_two_pow, decide_eq_true (Nat.le_add_right _ _), Bool.true_and, Nat.add_sub_cancel_left]
  · have hhigh : p.2 < 2 ^ i :=
      (hfit p hp).trans_le (Nat.pow_le_pow_right (by decide) (by rw [FieldSlice.width]; omega))
    rw [decide_eq_false hin, Bool.false_and, Nat.testBit_lt_two_pow hhigh]

/-- Settles O13: a legal `SLICE` answers the extractor's value, which is the packed field. -/
theorem packedFieldsAreExtracted : Obligations.PackedFieldsAreExtracted := by
  intro s fields hdisjoint hfit hstream p hp
  rw [exec_slice_of_legal s p.1.legal, extract_packed hdisjoint hfit hstream hp]
  rfl

/-! ## The splitting law -/

/-- The low `a + b` bits of a number are its low `a` bits and the `b` bits above them. -/
theorem mod_two_pow_add (n a b : Nat) : n % 2 ^ (a + b) = n % 2 ^ a + n / 2 ^ a % 2 ^ b * 2 ^ a := by
  rw [Nat.pow_add, Nat.mod_mul, Nat.mul_comm (2 ^ a)]

/-- Settles O14: the three slices as numbers, and the splitting of a remainder. -/
theorem slicesConcatenate : Obligations.SlicesConcatenate := by
  intro s endBit midBit startBit hlow hhigh hspan hend
  refine ⟨_, _, _, exec_slice_of_legal s ⟨by omega, hspan, hend⟩, exec_slice_of_legal s ⟨hlow, by omega, by omega⟩,
    exec_slice_of_legal s ⟨by omega, by omega, hend⟩, ?_⟩
  rw [extract_toNat _ _ _ hspan, extract_toNat _ _ _ (by omega), extract_toNat _ _ _ (by omega)]
  have hwidth : endBit - startBit + 1 = (midBit - startBit + 1) + (endBit - (midBit + 1) + 1) := by omega
  have hmid : startBit + (midBit - startBit + 1) = midBit + 1 := by omega
  rw [hwidth, mod_two_pow_add, Nat.div_div_eq_div_mul, ← Nat.pow_add, hmid]

end Sys2Proof.Machine
end

section
/-! PROOFS. How many operand pairs of a `SLICE` are legal, and how many are at fault for which cause (30_encoding.md part 1). -/

namespace Sys2Proof.Machine

/-- Counting over all pairs `end * k + start`, row by row. -/
theorem count_mul_eq_sum (p : Nat → Prop) [DecidablePred p] (n k : Nat) :
    Nat.count p (n * k) = ∑ e ∈ Finset.range n, Nat.count (fun s => p (e * k + s)) k := by
  induction n with
  | zero => simp
  | succ n ih => rw [Nat.succ_mul, Nat.count_add, ih, Finset.sum_range_succ]

/-- How many numbers below `n` lie from `lo` up to `hi`. -/
theorem count_interval (lo hi n : Nat) : Nat.count (fun s => lo ≤ s ∧ s < hi) n = min hi n - lo := by
  induction n with
  | zero => simp
  | succ n ih =>
    rw [Nat.count_succ, ih]
    split
    · omega
    · omega

/-- A property of operand pairs that, for each `end`, holds of the starts of an interval, is counted by the intervals' lengths. -/
theorem length_filter_pairs {q : Nat → Nat → Prop} [∀ e s, Decidable (q e s)] {lo hi : Nat → Nat}
    (h : ∀ e < 128, ∀ s < 128, q e s ↔ lo e ≤ s ∧ s < hi e) :
    ((List.range 16384).filter fun n => decide (q (n / 128) (n % 128))).length
      = ∑ e ∈ Finset.range 128, (min (hi e) 128 - lo e) := by
  rw [← List.countP_eq_length_filter]
  change Nat.count (fun n => q (n / 128) (n % 128)) (128 * 128) = _
  rw [count_mul_eq_sum]
  refine Finset.sum_congr rfl fun e he => ?_
  have hrow : ∀ s < 128, q ((e * 128 + s) / 128) ((e * 128 + s) % 128) ↔ lo e ≤ s ∧ s < hi e := by
    intro s hs
    have hdiv : (e * 128 + s) / 128 = e := by omega
    have hmod : (e * 128 + s) % 128 = s := by omega
    rw [hdiv, hmod]
    exact h e (Finset.mem_range.mp he) s hs
  rw [← count_interval (lo e) (hi e) 128]
  exact le_antisymm (Nat.count_mono_left fun s hs => (hrow s hs).mp) (Nat.count_mono_left fun s hs => (hrow s hs).mpr)

/-- The first test's cause is given for nothing but what it tests. -/
theorem sliceCause_eq_endLtStart_iff {endBit startBit : Nat} :
    sliceCause 4 endBit startBit = some .endLtStart ↔ endBit < startBit := by
  refine ⟨fun h => ?_, sliceCause_of_lt 4⟩
  by_contra hle
  rw [sliceCause, if_neg hle] at h
  split at h
  · simp at h
  · split at h
    · simp at h
    · simp at h

/-- The second test's cause is given for nothing but what it tests, where the first has passed. -/
theorem sliceCause_eq_spanGe32_iff {endBit startBit : Nat} :
    sliceCause 4 endBit startBit = some .spanGe32 ↔ startBit ≤ endBit ∧ 32 ≤ endBit - startBit := by
  refine ⟨fun h => ?_, fun h => sliceCause_of_span 4 h.1 h.2⟩
  by_contra hnot
  rw [sliceCause] at h
  split at h
  · simp at h
  · rw [if_neg (by omega)] at h
    split at h
    · simp at h
    · simp at h

/-- The sum of the numbers below `n`, each less `m`. -/
theorem two_mul_sum_sub (m n : Nat) : 2 * ∑ e ∈ Finset.range n, (e - m) = (n - m) * (n - m - 1) := by
  induction n with
  | zero => simp
  | succ n ih =>
    rw [Finset.sum_range_succ, Nat.mul_add, ih]
    rcases Nat.le_total m n with hle | hle
    · obtain ⟨k, rfl⟩ := Nat.exists_eq_add_of_le hle
      have hsucc : m + k + 1 - m = k + 1 := by omega
      rw [hsucc, Nat.add_sub_cancel_left, Nat.add_sub_cancel]
      cases k with
      | zero => rfl
      | succ k =>
        rw [Nat.add_sub_cancel]
        ring
    · have hzero : n - m = 0 := Nat.sub_eq_zero_of_le hle
      have hlast : n + 1 - m - 1 = 0 := by omega
      rw [hzero, hlast]
      rfl

/-- The operand pairs with `end < start`: for each `end`, the starts above it. -/
theorem length_endLtStart_pairs :
    ((List.range 16384).filter fun n => decide (sliceCause 4 (n / 128) (n % 128) = some .endLtStart)).length = 8128 := by
  have hrow : ∀ e < 128, ∀ s < 128, sliceCause 4 e s = some .endLtStart ↔ e + 1 ≤ s ∧ s < 128 := by
    intro e _ s hs
    rw [sliceCause_eq_endLtStart_iff]
    omega
  have hreflect : ∑ e ∈ Finset.range 128, (min 128 128 - (e + 1)) = ∑ e ∈ Finset.range 128, (e - 0) := by
    rw [← Finset.sum_range_reflect]
    exact Finset.sum_congr rfl fun e he => by rw [Finset.mem_range] at he; omega
  have htotal := two_mul_sum_sub 0 128
  rw [length_filter_pairs hrow, hreflect]
  omega

/-- The operand pairs with too long a span: for each `end`, the starts 32 or more below it. -/
theorem length_spanGe32_pairs :
    ((List.range 16384).filter fun n => decide (sliceCause 4 (n / 128) (n % 128) = some .spanGe32)).length = 4656 := by
  have hrow : ∀ e < 128, ∀ s < 128, sliceCause 4 e s = some .spanGe32 ↔ 0 ≤ s ∧ s < e - 31 := by
    intro e _ s _
    rw [sliceCause_eq_spanGe32_iff]
    omega
  have hlengths : ∑ e ∈ Finset.range 128, (min (e - 31) 128 - 0) = ∑ e ∈ Finset.range 128, (e - 31) :=
    Finset.sum_congr rfl fun e he => by rw [Finset.mem_range] at he; omega
  have htotal := two_mul_sum_sub 31 128
  rw [length_filter_pairs hrow, hlengths]
  omega

/-- The legal operand pairs: for each `end`, the starts up to it that are not 32 or more below it. -/
theorem length_legal_pairs :
    ((List.range 16384).filter fun n => decide (sliceCause 4 (n / 128) (n % 128) = none)).length = 3600 := by
  have hrow : ∀ e < 128, ∀ s < 128, sliceCause 4 e s = none ↔ e - 31 ≤ s ∧ s < e + 1 := by
    intro e he s _
    rw [sliceCause_eq_none_iff]
    omega
  have hlengths : ∑ e ∈ Finset.range 128, (min (e + 1) 128 - (e - 31)) + ∑ e ∈ Finset.range 128, (e - 31)
      = ∑ e ∈ Finset.range 128, (e - 0) + ∑ e ∈ Finset.range 128, 1 := by
    rw [← Finset.sum_add_distrib, ← Finset.sum_add_distrib]
    exact Finset.sum_congr rfl fun e he => by rw [Finset.mem_range] at he; omega
  have hlong := two_mul_sum_sub 31 128
  have htotal := two_mul_sum_sub 0 128
  rw [← Finset.card_eq_sum_ones, Finset.card_range] at hlengths
  rw [length_filter_pairs hrow]
  omega

/-- Settles O16: for each `end` the starts of an outcome are an interval, and the intervals' lengths add up. -/
theorem legalSliceOperandCounts : Obligations.LegalSliceOperandCounts :=
  ⟨length_legal_pairs, length_endLtStart_pairs, length_spanGe32_pairs⟩

end Sys2Proof.Machine
end

section
/-! PROOFS. A field slice as bits of the 128-bit register (00_scope.md R8, R11), and the ports of a record found by name. -/

namespace Sys2Proof.Machine

/-! ## Slices of the register -/

/-- A field slice's value is the bits of the register, right-aligned in 32 bits. -/
theorem sliceValue_eq_registerBits (w : Words) (f : FieldSlice) :
    sliceValue (wordArray w) f = ((Spec.registerBits w).extractLsb' f.startBit f.width).setWidth 32 := by
  rw [sliceValue, extract, stream_eq_registerBits, ← Nat.shiftRight_eq_div_pow, ← BitVec.ofNat_toNat,
    BitVec.extractLsb'_toNat, FieldSlice.width]

/-- A field slice is at most as wide as a word. -/
theorem fieldSlice_width_le (f : FieldSlice) : f.width ≤ 32 := by
  have hlegal := f.legal
  rw [FieldSlice.width]
  omega

/-- A field slice's value as a number is that of the register's bits. -/
theorem sliceValue_toNat (w : Words) (f : FieldSlice) :
    (sliceValue (wordArray w) f).toNat = Spec.bitsNat w f.endBit f.startBit := by
  rw [sliceValue, extract_toNat _ _ _ f.legal.2.1, stream_eq_registerBits, Spec.bitsNat]

/-- Bits of the register as a number fit their width. -/
theorem bitsNat_lt (w : Words) (hi lo : Nat) : Spec.bitsNat w hi lo < 2 ^ (hi - lo + 1) :=
  Nat.mod_lt _ (Nat.two_pow_pos _)

/-- A field slice's value fits its width, whatever the words. -/
theorem sliceValue_lt (ws : List Word) (f : FieldSlice) : (sliceValue ws f).toNat < 2 ^ f.width := by
  rw [sliceValue, extract_toNat _ _ _ f.legal.2.1]
  exact Nat.mod_lt _ (Nat.two_pow_pos _)

/-- A port driven with a slice holds the register's bits, as wide as the slice. -/
theorem slicePort_eq_bits (w : Words) (f : FieldSlice) :
    slicePort (wordArray w) f = Spec.bits w f.endBit f.startBit := by
  rw [slicePort, sliceValue_eq_registerBits, BitVec.setWidth_setWidth_of_le _ (fieldSlice_width_le f), BitVec.setWidth_eq]
  rfl

/-- A port driven with a slice holds the slice's value as a number. -/
@[simp] theorem slicePort_value_toNat (ws : List Word) (f : FieldSlice) :
    (slicePort ws f).value.toNat = (sliceValue ws f).toNat := by
  rw [slicePort, BitVec.toNat_setWidth, Nat.mod_eq_of_lt (sliceValue_lt ws f)]

/-- The year port where the family's epoch leaves room for every year of the slice (41_cid.md R112). -/
theorem yearPort_eq_bits {epoch : Nat} {f : FieldSlice} (h : 2 ^ f.width + epoch ≤ 2 ^ 16) (w : Words) :
    yearPort epoch (wordArray w) f
      = { width := 16, value := BitVec.ofNat 16 (Spec.bitsNat w f.endBit f.startBit + epoch) } := by
  have hlt := sliceValue_lt (wordArray w) f
  rw [yearPort_of_lt _ _ _ (by omega), sliceValue_toNat]

/-! ## Records -/

/-- Looking a key up in a list of pairs made row by row finds the first row with that key. -/
theorem lookup_map_pair {α κ β : Type} [DecidableEq κ] (key : α → κ) (val : α → β) (l : List α) (k : κ) :
    (l.map fun a => (key a, val a)).lookup k = (l.find? fun a => decide (key a = k)).map val := by
  induction l with
  | nil => rfl
  | cons a l ih =>
    rw [List.map_cons, List.lookup_cons, List.find?_cons, ih]
    by_cases h : key a = k
    · simp [h]
    · simp [h, beq_false_of_ne (Ne.symm h)]

/-- A port of a CSD record holds the slice of the row with its name. -/
theorem lookup_csdRecordOf (t : List CsdRow) (ws : List Word) (p : CsdPort) :
    (csdRecordOf t ws).lookup p
      = ((t.find? fun r => decide (r.port = p)).map CsdRow.slice).map (slicePort ws) := by
  rw [csdRecordOf, lookup_map_pair, Option.map_map]
  rfl

/-- The port a row of a CID layout goes to, by its name (30_encoding.md R68; 41_cid.md R113). -/
def cidRowTarget (pnmLen : Nat) : CidRowName → CidPort
  | .port p => p
  | .pnm k => .pnm (pnmLen - 1 - k)
  | .mdtY => .mdtY

/-- A row drives the port its name goes to. -/
theorem cidRowPort_fst (epoch pnmLen : Nat) (ws : List Word) (r : CidRow) :
    (cidRowPort epoch pnmLen ws r).1 = cidRowTarget pnmLen r.name := by
  rw [cidRowPort, cidRowTarget.eq_def]
  split <;> simp_all

/-- A well-formed row that goes to an element of the name is a row of the name. -/
theorem target_pnm_of_wellFormed {pnmLen i : Nat} {r : CidRow} (h : r.wellFormed pnmLen = true)
    (htarget : cidRowTarget pnmLen r.name = .pnm i) : ∃ k < pnmLen, r.name = .pnm k ∧ i = pnmLen - 1 - k := by
  rw [CidRow.wellFormed] at h
  cases hname : r.name with
  | port p =>
    rw [hname] at h htarget
    obtain rfl : p = .pnm i := htarget
    exact absurd h (by simp)
  | pnm k =>
    rw [hname] at h htarget
    simp only [Bool.and_eq_true, decide_eq_true_iff] at h
    exact ⟨k, h.1, rfl, (CidPort.pnm.inj htarget).symm⟩
  | mdtY =>
    rw [hname] at htarget
    exact absurd htarget (by simp [cidRowTarget])

/-- A well-formed row that goes to the year port is the year's row. -/
theorem target_mdtY_of_wellFormed {pnmLen : Nat} {r : CidRow} (h : r.wellFormed pnmLen = true)
    (htarget : cidRowTarget pnmLen r.name = .mdtY) : r.name = .mdtY := by
  rw [CidRow.wellFormed] at h
  cases hname : r.name with
  | port p =>
    rw [hname] at h htarget
    obtain rfl : p = .mdtY := htarget
    exact absurd h (by simp)
  | pnm k =>
    rw [hname] at htarget
    exact absurd htarget (by simp [cidRowTarget])
  | mdtY => rfl

/-- Well-formed rows that go to one port have one name. -/
theorem rowName_eq_of_target_eq {pnmLen : Nat} {r q : CidRow} (hr : r.wellFormed pnmLen = true)
    (hq : q.wellFormed pnmLen = true) (h : cidRowTarget pnmLen r.name = cidRowTarget pnmLen q.name) :
    r.name = q.name := by
  cases hname : q.name with
  | pnm k =>
    rw [hname] at h
    obtain ⟨j, hj, hrname, hindex⟩ := target_pnm_of_wellFormed hr h
    have hk : k < pnmLen := by
      rw [CidRow.wellFormed, hname] at hq
      simp only [Bool.and_eq_true, decide_eq_true_iff] at hq
      exact hq.1
    rw [hrname]
    congr 1
    omega
  | mdtY =>
    rw [hname] at h
    exact target_mdtY_of_wellFormed hr h
  | port p =>
    rw [hname] at h
    cases hrname : r.name with
    | port q => exact congrArg CidRowName.port (by rw [hrname] at h; exact h)
    | pnm k =>
      rw [hrname] at h
      obtain ⟨j, -, hqname, -⟩ :=
        target_pnm_of_wellFormed (i := pnmLen - 1 - k) hq (by rw [hname]; exact h.symm)
      exact absurd (hname.symm.trans hqname) (by simp)
    | mdtY =>
      rw [hrname] at h
      have hqname := target_mdtY_of_wellFormed hq (by rw [hname]; exact h.symm)
      exact absurd (hname.symm.trans hqname) (by simp)

/-- In a CID record of well-formed rows, the port that a row goes to holds what that row drives. -/
theorem lookup_cidRecordOf {pnmLen : Nat} {t : List CidRow} (hwf : t.all (CidRow.wellFormed pnmLen) = true)
    {n : CidRowName} {r : CidRow} (hrow : t.find? (fun r => decide (r.name = n)) = some r) (epoch : Nat)
    (ws : List Word) :
    (cidRecordOf epoch pnmLen t ws).lookup (cidRowTarget pnmLen n) = some (cidRowPort epoch pnmLen ws r).2 := by
  have hn : r.name = n := by simpa using List.find?_some hrow
  have hall := List.all_eq_true.mp hwf
  have hsame : ∀ q ∈ t, decide ((cidRowPort epoch pnmLen ws q).1 = cidRowTarget pnmLen n) = decide (q.name = n) := by
    intro q hq
    rw [cidRowPort_fst, ← hn, decide_eq_decide]
    exact ⟨rowName_eq_of_target_eq (hall q hq) (hall r (List.mem_of_find?_eq_some hrow)),
      fun h => congrArg (cidRowTarget pnmLen) h⟩
  change (t.map fun q => ((cidRowPort epoch pnmLen ws q).1, (cidRowPort epoch pnmLen ws q).2)).lookup _ = _
  rw [lookup_map_pair, List.find?_congr hsame, hrow, Option.map_some]

/-- No row of a well-formed layout goes to an element at or above the length of the name. -/
theorem lookup_cidRecordOf_pnm_eq_none {pnmLen : Nat} {t : List CidRow}
    (hwf : t.all (CidRow.wellFormed pnmLen) = true) {i : Nat} (hi : pnmLen ≤ i) (epoch : Nat) (ws : List Word) :
    (cidRecordOf epoch pnmLen t ws).lookup (.pnm i) = none := by
  change (t.map fun q => ((cidRowPort epoch pnmLen ws q).1, (cidRowPort epoch pnmLen ws q).2)).lookup _ = _
  rw [lookup_map_pair, Option.map_eq_none_iff, List.find?_eq_none]
  intro r hr htarget
  rw [decide_eq_true_iff, cidRowPort_fst] at htarget
  obtain ⟨k, hk, -, hindex⟩ := target_pnm_of_wellFormed (List.all_eq_true.mp hwf r hr) htarget
  omega

end Sys2Proof.Machine
end

section
/-! PROOFS. The field tables (30_encoding.md part 3), the pseudo-instruction `FIELD` (part 4), and the records of the five decoders
(41_cid.md, 42_csd.md). -/

namespace Sys2Proof.Machine

/-- Settles O30: each property of the fixed tables is checked by evaluation. -/
theorem tablesMeetTheirStatedProperties : Obligations.TablesMeetTheirStatedProperties := by
  unfold Obligations.TablesMeetTheirStatedProperties
  decide

/-- The rows of the SD CID layout are rows the spec speaks of. -/
theorem layoutCidSd_wellFormed : layoutCidSd.all (CidRow.wellFormed pnmLenSd) = true := by decide

/-- The rows of the MMC CID layout are rows the spec speaks of. -/
theorem layoutCidMmc_wellFormed : layoutCidMmc.all (CidRow.wellFormed pnmLenMmc) = true := by decide

/-! ## FIELD -/

/-- `FIELD` of a row is the `SLICE` of that row's slice. -/
theorem expandField_eq_some_iff (f : FieldRef) (i : Instr) :
    expandField f = some i ↔ ∃ g, fieldSlice config.tables f = some g ∧ i = .slice g.endBit g.startBit := by
  rw [expandField, Option.map_eq_some_iff]
  simp only [eq_comm]

/-- A field slice lies in the register, so `SLICE` of it is well formed. -/
theorem wellFormed_slice_of_fieldSlice (g : FieldSlice) : (Instr.slice g.endBit g.startBit).wellFormed = true := by
  have hlegal := g.legal
  simp only [Instr.wellFormed, Bool.and_eq_true, decide_eq_true_iff]
  omega

/-- `SLICE` of a field slice answers its value. -/
theorem exec_slice_of_fieldSlice (g : FieldSlice) (s : State) :
    exec (.slice g.endBit g.startBit) s = .next (s.answer (.slice (sliceValue (wordArray s.w) g))) :=
  exec_slice_of_legal s g.legal

/-- Settles O29: an expansion is `SLICE` of a field slice; the five words are evaluated. -/
theorem fieldExpansionNeverFaults : Obligations.FieldExpansionNeverFaults := by
  refine ⟨fun f i s h => ?every_row, by decide, by decide, by decide, by decide, by decide⟩
  case every_row =>
    obtain ⟨g, -, rfl⟩ := (expandField_eq_some_iff f i).mp h
    exact ⟨wellFormed_slice_of_fieldSlice g, _, exec_slice_of_fieldSlice g s⟩

/-! ## The records, port by port -/

/-- A CSD record holds the register's bits, row by row. -/
theorem csdRecordOf_eq_bits (t : List CsdRow) (w : Words) :
    csdRecordOf t (wordArray w) = t.map fun r => (r.port, Spec.bits w r.slice.endBit r.slice.startBit) := by
  simp only [csdRecordOf, slicePort_eq_bits]

/-- Settles O22: the rows of the MMC layout. -/
theorem csdMmcRecord : Obligations.CsdMmcRecord := by
  intro s
  rw [exec_eq_reply, reply, csdRecordOf_eq_bits]
  rfl

/-- Settles O23: the rows of the SD 1.0 layout. -/
theorem csdSd10Record : Obligations.CsdSd10Record := by
  intro s
  rw [exec_eq_reply, reply, csdRecordOf_eq_bits]
  rfl

/-- Settles O24: the rows of the SD 2.0 layout. -/
theorem csdSd20Record : Obligations.CsdSd20Record := by
  intro s
  rw [exec_eq_reply, reply, csdRecordOf_eq_bits]
  rfl

/-- Settles O20: the rows of the SD layout, the name's in reading order and the year biased by 2000. -/
theorem cidSdRecord : Obligations.CidSdRecord := by
  intro s
  have hyear : 2 ^ (FieldSlice.width { endBit := 19, startBit := 12 }) + epochSd ≤ 2 ^ 16 := by decide
  rw [exec_eq_reply, reply]
  simp only [cidRecordOf, layoutCidSd, List.map_cons, List.map_nil, cidRowPort, slicePort_eq_bits, yearPort_eq_bits hyear]
  rfl

/-- Settles O21: the rows of the MMC layout, the name's in reading order and the year biased by 1997. -/
theorem cidMmcRecord : Obligations.CidMmcRecord := by
  intro s
  have hyear : 2 ^ (FieldSlice.width { endBit := 11, startBit := 8 }) + epochMmc ≤ 2 ^ 16 := by decide
  rw [exec_eq_reply, reply]
  simp only [cidRecordOf, layoutCidMmc, List.map_cons, List.map_nil, cidRowPort, slicePort_eq_bits, yearPort_eq_bits hyear]
  rfl

/-! ## The two transforms of the CID decoders -/

/-- The byte of the name that a row `PNM<k>` gives lands at element `pnmLen - 1 - k`. -/
theorem lookup_name_element {pnmLen k : Nat} {t : List CidRow} (hwf : t.all (CidRow.wellFormed pnmLen) = true)
    {r : CidRow} (hrow : t.find? (fun r => decide (r.name = .pnm k)) = some r) (epoch : Nat) (ws : List Word) :
    ∃ c : Byte, (cidRecordOf epoch pnmLen t ws).lookup (.pnm (pnmLen - 1 - k)) = some { width := 8, value := c }
      ∧ c.setWidth 32 = sliceValue ws r.slice := by
  have hname : r.name = .pnm k := by simpa using List.find?_some hrow
  have hwidth : r.slice.width = 8 := by
    have h := List.all_eq_true.mp hwf r (List.mem_of_find?_eq_some hrow)
    rw [CidRow.wellFormed, hname] at h
    simp only [Bool.and_eq_true, decide_eq_true_iff] at h
    exact h.2
  have hport : cidRowPort epoch pnmLen ws r = (.pnm (pnmLen - 1 - k), slicePort ws r.slice) := by
    rw [cidRowPort, hname]
  refine ⟨(sliceValue ws r.slice).setWidth 8, ?element, ?byte⟩
  case element =>
    have h := lookup_cidRecordOf hwf hrow epoch ws
    rw [hport, slicePort, hwidth] at h
    exact h
  case byte =>
    have hlt := sliceValue_lt ws r.slice
    rw [hwidth] at hlt
    apply BitVec.eq_of_toNat_eq
    rw [BitVec.toNat_setWidth, BitVec.toNat_setWidth]
    omega

/-- Settles O25: every name row of both layouts exists, and a row of the name lands at its element. -/
theorem productNameIsReversed : Obligations.ProductNameIsReversed := by
  intro s
  refine ⟨_, _, exec_eq_reply .cidsd s, exec_eq_reply .cidmmc s, fun k hk => ?sd, fun k hk => ?mmc,
    fun i hi => lookup_cidRecordOf_pnm_eq_none layoutCidSd_wellFormed hi _ _,
    fun i hi => lookup_cidRecordOf_pnm_eq_none layoutCidMmc_wellFormed hi _ _⟩
  case sd =>
    have hrows : ∀ k < 5, (layoutCidSd.find? fun r => decide (r.name = .pnm k)).isSome = true := by decide
    obtain ⟨r, hrow⟩ := Option.isSome_iff_exists.mp (hrows k hk)
    obtain ⟨c, helement, hbyte⟩ := lookup_name_element layoutCidSd_wellFormed hrow epochSd (wordArray s.w)
    refine ⟨r.slice, congrArg (Option.map CidRow.slice) hrow, c, helement, ?_⟩
    rw [hbyte]
    exact exec_slice_of_fieldSlice r.slice s
  case mmc =>
    have hrows : ∀ k < 6, (layoutCidMmc.find? fun r => decide (r.name = .pnm k)).isSome = true := by decide
    obtain ⟨r, hrow⟩ := Option.isSome_iff_exists.mp (hrows k hk)
    obtain ⟨c, helement, hbyte⟩ := lookup_name_element layoutCidMmc_wellFormed hrow epochMmc (wordArray s.w)
    refine ⟨r.slice, congrArg (Option.map CidRow.slice) hrow, c, helement, ?_⟩
    rw [hbyte]
    exact exec_slice_of_fieldSlice r.slice s

/-- The year's row drives the 16-bit port with the raw year plus the epoch, without wrap. -/
theorem lookup_year {epoch pnmLen : Nat} {t : List CidRow} (hwf : t.all (CidRow.wellFormed pnmLen) = true)
    {f : FieldSlice} (hrow : t.find? (fun r => decide (r.name = .mdtY)) = some ⟨.mdtY, f⟩)
    (hfit : 2 ^ f.width + epoch ≤ 2 ^ 16) (ws : List Word) :
    ∃ y : BitVec 16, (cidRecordOf epoch pnmLen t ws).lookup .mdtY = some { width := 16, value := y }
      ∧ y.toNat = (sliceValue ws f).toNat + epoch := by
  have hlt := sliceValue_lt ws f
  refine ⟨BitVec.ofNat 16 ((sliceValue ws f).toNat + epoch), ?port, ?value⟩
  case port =>
    rw [← yearPort_of_lt _ _ _ (by omega)]
    exact lookup_cidRecordOf hwf hrow epoch ws
  case value => rw [BitVec.toNat_ofNat, Nat.mod_eq_of_lt (by omega)]

/-- Settles O26: the year's rows are 8 and 4 bits wide, so both sums fit the port. -/
theorem yearIsBiasedByEpoch : Obligations.YearIsBiasedByEpoch := by
  intro s
  have hrowSd : layoutCidSd.find? (fun r => decide (r.name = .mdtY)) = some ⟨.mdtY, { endBit := 19, startBit := 12 }⟩ := by
    decide
  have hrowMmc : layoutCidMmc.find? (fun r => decide (r.name = .mdtY)) = some ⟨.mdtY, { endBit := 11, startBit := 8 }⟩ := by
    decide
  obtain ⟨ysd, hsd, hysd⟩ := lookup_year (epoch := 2000) layoutCidSd_wellFormed hrowSd (by decide) (wordArray s.w)
  obtain ⟨ymmc, hmmc, hymmc⟩ := lookup_year (epoch := 1997) layoutCidMmc_wellFormed hrowMmc (by decide) (wordArray s.w)
  have hrawSd : (sliceValue (wordArray s.w) { endBit := 19, startBit := 12 }).toNat < 2 ^ 8 := sliceValue_lt _ _
  have hrawMmc : (sliceValue (wordArray s.w) { endBit := 11, startBit := 8 }).toNat < 2 ^ 4 := sliceValue_lt _ _
  exact ⟨_, _, ysd, ymmc, _, _, exec_eq_reply .cidsd s, exec_eq_reply .cidmmc s, hsd, hmmc, by decide, by decide,
    hysd, hymmc, by omega, by omega⟩

/-! ## Ports and FIELD -/

/-- A CSD port holds what `FIELD` of the row of its name answers. -/
theorem csdPort_eq_field {t : List CsdRow} {p : CsdPort} {g : FieldSlice}
    (hrow : (t.find? fun r => decide (r.port = p)).map CsdRow.slice = some g) (s : State) :
    ∃ port v, exec (.slice g.endBit g.startBit) s = .next { s with response := .slice v }
      ∧ (csdRecordOf t (wordArray s.w)).lookup p = some port ∧ port.value.toNat = v.toNat :=
  ⟨_, _, exec_slice_of_fieldSlice g s, by rw [lookup_csdRecordOf, hrow, Option.map_some], slicePort_value_toNat _ g⟩

/-- A CID port of its own name holds what `FIELD` of the row of that name answers. -/
theorem cidPort_eq_field {pnmLen : Nat} {t : List CidRow} (hwf : t.all (CidRow.wellFormed pnmLen) = true)
    {p : CidPort} {g : FieldSlice}
    (hrow : (t.find? fun r => decide (r.name = .port p)).map CidRow.slice = some g) (epoch : Nat) (s : State) :
    ∃ port v, exec (.slice g.endBit g.startBit) s = .next { s with response := .slice v }
      ∧ (cidRecordOf epoch pnmLen t (wordArray s.w)).lookup p = some port ∧ port.value.toNat = v.toNat := by
  obtain ⟨r, hfind, rfl⟩ := Option.map_eq_some_iff.mp hrow
  have hname : r.name = .port p := by simpa using List.find?_some hfind
  have hport : cidRowPort epoch pnmLen (wordArray s.w) r = (p, slicePort (wordArray s.w) r.slice) := by
    rw [cidRowPort, hname]
  have hlookup := lookup_cidRecordOf hwf hfind epoch (wordArray s.w)
  rw [hport] at hlookup
  exact ⟨_, _, exec_slice_of_fieldSlice r.slice s, hlookup, slicePort_value_toNat _ r.slice⟩

/-- Settles O28: in each layout the row that `FIELD` names is the row that the port is driven by. -/
theorem decoderPortsEqualFieldSlices : Obligations.DecoderPortsEqualFieldSlices := by
  intro s i
  refine ⟨fun p h => ?cidsd, fun p h => ?cidmmc, fun p h => ?csdmmc, fun p h => ?csdsd10, fun p h => ?csdsd20⟩
  all_goals obtain ⟨g, hrow, rfl⟩ := (expandField_eq_some_iff _ i).mp h
  case cidsd =>
    obtain ⟨port, v, h⟩ := cidPort_eq_field layoutCidSd_wellFormed hrow epochSd s
    exact ⟨_, port, v, exec_eq_reply .cidsd s, h⟩
  case cidmmc =>
    obtain ⟨port, v, h⟩ := cidPort_eq_field layoutCidMmc_wellFormed hrow epochMmc s
    exact ⟨_, port, v, exec_eq_reply .cidmmc s, h⟩
  case csdmmc =>
    obtain ⟨port, v, h⟩ := csdPort_eq_field hrow s
    exact ⟨_, port, v, exec_eq_reply .csdmmc s, h⟩
  case csdsd10 =>
    obtain ⟨port, v, h⟩ := csdPort_eq_field hrow s
    exact ⟨_, port, v, exec_eq_reply .csdsd10 s, h⟩
  case csdsd20 =>
    obtain ⟨port, v, h⟩ := csdPort_eq_field hrow s
    exact ⟨_, port, v, exec_eq_reply .csdsd20 s, h⟩

/-- Settles O31: the twenty names have the same slice in the three tables. -/
theorem sharedCsdPortsAgree : Obligations.SharedCsdPortsAgree := by
  intro s
  refine ⟨_, _, _, exec_eq_reply .csdmmc s, exec_eq_reply .csdsd10 s, exec_eq_reply .csdsd20 s, fun p hp => ?_⟩
  have hrows : ∀ p ∈ [CsdPort.csdStructure, .taac, .nsac, .tranSpeed, .ccc, .readBlLen, .readBlPartial,
      .writeBlkMisalign, .readBlkMisalign, .dsrImp, .wpGrpEnable, .r2wFactor, .writeBlLen, .writeBlPartial,
      .fileFormatGrp, .copy, .permWriteProtect, .tmpWriteProtect, .fileFormat, .crc],
      (fieldSlice tables (.csdMmc p)).isSome = true ∧ fieldSlice tables (.csdSd10 p) = fieldSlice tables (.csdMmc p)
        ∧ fieldSlice tables (.csdSd20 p) = fieldSlice tables (.csdMmc p) := by decide
  obtain ⟨hsome, h10, h20⟩ := hrows p hp
  obtain ⟨g, hg⟩ := Option.isSome_iff_exists.mp hsome
  have hport : ∀ {t : List CsdRow}, (t.find? fun r => decide (r.port = p)).map CsdRow.slice = some g →
      (csdRecordOf t (wordArray s.w)).lookup p = some (slicePort (wordArray s.w) g) :=
    fun h => by rw [lookup_csdRecordOf, h, Option.map_some]
  exact ⟨_, hport hg, hport (h10.trans hg), hport (h20.trans hg)⟩

/-! ## Bits that no row covers -/

/-- Every bit of the slice is set in the mask. -/
def CoveredBy (mask : BitVec 128) (f : FieldSlice) : Prop :=
  mask.extractLsb' f.startBit f.width = BitVec.allOnes f.width

/-- Registers that agree on the bits of a slice have one value of it. -/
theorem sliceValue_congr {mask : BitVec 128} {v w : Words} (h : Spec.agreeOn mask v w) {f : FieldSlice}
    (hf : CoveredBy mask f) : sliceValue (wordArray v) f = sliceValue (wordArray w) f := by
  have hbits := congrArg (BitVec.extractLsb' f.startBit f.width) h
  rw [BitVec.extractLsb'_and, BitVec.extractLsb'_and, hf, BitVec.and_allOnes, BitVec.and_allOnes] at hbits
  rw [sliceValue_eq_registerBits, sliceValue_eq_registerBits, hbits]

/-- A CSD record depends on the bits that its rows cover. -/
theorem csdRecordOf_congr {mask : BitVec 128} {v w : Words} (h : Spec.agreeOn mask v w) {t : List CsdRow}
    (ht : ∀ r ∈ t, CoveredBy mask r.slice) : csdRecordOf t (wordArray v) = csdRecordOf t (wordArray w) := by
  refine List.map_congr_left fun r hr => ?_
  rw [slicePort, slicePort, sliceValue_congr h (ht r hr)]

/-- A CID record depends on the bits that its rows cover, where every year fits the port. -/
theorem cidRecordOf_congr {mask : BitVec 128} {v w : Words} (h : Spec.agreeOn mask v w) {t : List CidRow}
    (ht : ∀ r ∈ t, CoveredBy mask r.slice) {epoch : Nat}
    (hyear : ∀ r ∈ t, r.name = .mdtY → 2 ^ r.slice.width + epoch ≤ 2 ^ 16) (pnmLen : Nat) :
    cidRecordOf epoch pnmLen t (wordArray v) = cidRecordOf epoch pnmLen t (wordArray w) := by
  refine List.map_congr_left fun r hr => ?_
  have hvalue := sliceValue_congr h (ht r hr)
  have hlt := sliceValue_lt (wordArray w) r.slice
  rw [cidRowPort, cidRowPort]
  cases hname : r.name with
  | port p => simp only [slicePort, hvalue]
  | pnm k => simp only [slicePort, hvalue]
  | mdtY =>
    have hfit := hyear r hr hname
    simp only [yearPort_of_lt epoch _ r.slice (by omega : (sliceValue (wordArray w) r.slice).toNat + epoch < 2 ^ 16),
      yearPort_of_lt epoch (wordArray v) r.slice (by rw [hvalue]; omega), hvalue]

/-- Settles O27: each mask covers the rows of its layout, so the two states have one record. -/
theorem decodersIgnoreUncoveredBits : Obligations.DecodersIgnoreUncoveredBits := by
  intro s t
  have hshared : ∀ i, reply s.w s.x i = reply t.w t.x i →
      ∃ r, exec i s = .next { s with response := r } ∧ exec i t = .next { t with response := r } :=
    fun i h => ⟨_, exec_eq_reply i s, h ▸ exec_eq_reply i t⟩
  refine ⟨fun h => hshared .cidsd ?cidsd, fun h => hshared .cidmmc ?cidmmc, fun h => hshared .csdmmc ?csdmmc,
    fun h => hshared .csdsd10 ?csdsd10, fun h => hshared .csdsd20 ?csdsd20⟩
  case cidsd =>
    exact congrArg Response.cidSd (cidRecordOf_congr h (by unfold CoveredBy; decide) (by decide) _)
  case cidmmc =>
    exact congrArg Response.cidMmc (cidRecordOf_congr h (by unfold CoveredBy; decide) (by decide) _)
  case csdmmc => exact congrArg Response.csdMmc (csdRecordOf_congr h (by unfold CoveredBy; decide))
  case csdsd10 => exact congrArg Response.csdSd10 (csdRecordOf_congr h (by unfold CoveredBy; decide))
  case csdsd20 => exact congrArg Response.csdSd20 (csdRecordOf_congr h (by unfold CoveredBy; decide))

end Sys2Proof.Machine
end

section
/-! PROOFS. The block count of `CAPCSD`, by structure version (43_capacity.md R150 to R158). -/

namespace Sys2Proof.Machine

/-! ## Cases of the count, at any parameters -/

/-- Version 0 with a shorter block length (43_capacity.md R154). -/
theorem csdBlocks_of_short (cfg : Config) (w : Words)
    (hversion : (sliceValue (wordArray w) cfg.tables.capacity.csdStructure).toNat = 0)
    (hlen : (sliceValue (wordArray w) cfg.tables.capacity.readBlLen).toNat < 9) :
    csdBlocks cfg w = shortBlockBlocks cfg w := by
  rw [csdBlocks, if_pos hversion, if_neg (Nat.not_le.mpr hlen)]

/-- Version 1 (43_capacity.md R152). -/
theorem csdBlocks_of_version1 (cfg : Config) (w : Words)
    (hversion : (sliceValue (wordArray w) cfg.tables.capacity.csdStructure).toNat = 1) :
    csdBlocks cfg w = blocksV1 (sliceValue (wordArray w) cfg.tables.capacity.cSizeV1).toNat := by
  rw [csdBlocks, if_neg (by omega), if_pos hversion]

/-! ## The block count of this hardware -/

/-- The block count on this hardware's table and parameters, as bits of the register. -/
theorem csdBlocks_eq_bits (w : Words) :
    csdBlocks config w =
      if Spec.bitsNat w 127 126 = 0 then
        if 9 ≤ Spec.bitsNat w 83 80 then
          blocksV0 (Spec.bitsNat w 73 62) (Spec.bitsNat w 49 47) (Spec.bitsNat w 83 80)
        else 0
      else if Spec.bitsNat w 127 126 = 1 then blocksV1 (Spec.bitsNat w 69 48)
      else 0 := by
  simp only [csdBlocks, sliceValue_toNat]
  rfl

/-- The formula of version 0 counts at least 4 blocks and at most 2^27 (43_capacity.md R151). -/
theorem blocksV0_bounds {cSize mult len : Nat} (hsize : cSize < 2 ^ 12) (hmult : mult < 2 ^ 3) (hlen : len < 2 ^ 4) :
    4 ≤ blocksV0 cSize mult len ∧ blocksV0 cSize mult len ≤ 2 ^ 27 := by
  rw [blocksV0]
  constructor
  · calc 4 = 1 * 2 ^ 2 * 1 := rfl
      _ ≤ (cSize + 1) * 2 ^ (mult + 2) * 2 ^ (len - 9) :=
        Nat.mul_le_mul
          (Nat.mul_le_mul (Nat.le_add_left 1 cSize) (Nat.pow_le_pow_right (by decide) (Nat.le_add_left 2 mult)))
          Nat.one_le_two_pow
  · calc (cSize + 1) * 2 ^ (mult + 2) * 2 ^ (len - 9) ≤ 2 ^ 12 * 2 ^ 9 * 2 ^ 6 :=
        Nat.mul_le_mul
          (Nat.mul_le_mul (by omega) (Nat.pow_le_pow_right (by decide) (by omega)))
          (Nat.pow_le_pow_right (by decide) (by omega))
      _ = 2 ^ 27 := by decide

/-- The bounds hold of the fields of every register. -/
theorem blocksV0_bits_bounds (w : Words) :
    4 ≤ blocksV0 (Spec.bitsNat w 73 62) (Spec.bitsNat w 49 47) (Spec.bitsNat w 83 80)
      ∧ blocksV0 (Spec.bitsNat w 73 62) (Spec.bitsNat w 49 47) (Spec.bitsNat w 83 80) ≤ 2 ^ 27 :=
  blocksV0_bounds (bitsNat_lt w 73 62) (bitsNat_lt w 49 47) (bitsNat_lt w 83 80)

/-- Settles O32: the block count as bits of the register, on the 32-bit port. -/
theorem capCsdBlocks : Obligations.CapCsdBlocks := by
  intro s
  rw [exec_capcsd, csdBlocks_eq_bits]
  rfl

/-- Settles O34: within its bounds the formula does not wrap. -/
theorem capCsdVersion0IsExact : Obligations.CapCsdVersion0IsExact := by
  intro s hversion hlen
  obtain ⟨hlow, hhigh⟩ := blocksV0_bits_bounds s.w
  refine ⟨_, exec_capcsd s, ?_⟩
  rw [csdBlocks_eq_bits, if_pos hversion, if_pos hlen, BitVec.toNat_ofNat, Nat.mod_eq_of_lt (by omega)]
  exact ⟨rfl, hlow, hhigh⟩

/-- The version-1 count needs at most 33 bits (43_capacity.md R152). -/
theorem blocksV1_bits_le (w : Words) : blocksV1 (Spec.bitsNat w 69 48) ≤ 2 ^ 32 := by
  have hsize : Spec.bitsNat w 69 48 < 2 ^ 22 := bitsNat_lt w 69 48
  rw [blocksV1]
  omega

/-- On 32 bits the version-1 count is 0 at the largest `c_size` alone. -/
theorem blocksV1_ofNat_eq_zero_iff (w : Words) :
    BitVec.ofNat 32 (blocksV1 (Spec.bitsNat w 69 48)) = 0#32 ↔ Spec.bitsNat w 69 48 = 0x3FFFFF := by
  have hsize : Spec.bitsNat w 69 48 < 2 ^ 22 := bitsNat_lt w 69 48
  rw [← BitVec.toNat_inj, BitVec.toNat_ofNat, BitVec.toNat_zero, blocksV1]
  omega

/-- Settles O35: the count is below 2^32 but at the largest `c_size`, and always below 2^33. -/
theorem capCsdVersion1WrapsOnlyAtTheTop : Obligations.CapCsdVersion1WrapsOnlyAtTheTop := by
  intro s hversion
  refine ⟨⟨_, exec_capcsd s, fun htop => ?exact32, fun htop => ?wraps⟩, fun cfg htables hwidth => ?wider⟩
  case exact32 =>
    have hsize : Spec.bitsNat s.w 69 48 < 2 ^ 22 := bitsNat_lt s.w 69 48
    rw [csdBlocks_eq_bits, if_neg (by omega), if_pos hversion, blocksV1, BitVec.toNat_ofNat]
    omega
  case wraps =>
    rw [csdBlocks_eq_bits, if_neg (by omega), if_pos hversion]
    exact (blocksV1_ofNat_eq_zero_iff s.w).mpr htop
  case wider =>
    have hcount : csdBlocks cfg s.w = blocksV1 (Spec.bitsNat s.w 69 48) := by
      rw [csdBlocks_of_version1 cfg s.w (by rw [sliceValue_toNat, htables]; exact hversion), sliceValue_toNat, htables]
      rfl
    have hfits : blocksV1 (Spec.bitsNat s.w 69 48) < 2 ^ cfg.capWidth :=
      (blocksV1_bits_le s.w).trans_lt (Nat.pow_lt_pow_right (by decide) (by omega))
    refine ⟨BitVec.ofNat cfg.capWidth (csdBlocks cfg s.w), rfl, ?_⟩
    rw [hcount, BitVec.toNat_ofNat, Nat.mod_eq_of_lt hfits]
    rfl

/-- Settles O36: each case of the count is 0 for its own reason or not at all. -/
theorem capCsdZeroHasThreeCauses : Obligations.CapCsdZeroHasThreeCauses := by
  intro s
  obtain ⟨hlow, hhigh⟩ := blocksV0_bits_bounds s.w
  refine ⟨_, exec_capcsd s, ?_⟩
  rw [csdBlocks_eq_bits]
  split
  case isTrue hversion =>
    split
    case isTrue hlen =>
      rw [← BitVec.toNat_inj, BitVec.toNat_ofNat, BitVec.toNat_zero, Nat.mod_eq_of_lt (by omega)]
      omega
    case isFalse hlen => exact iff_of_true rfl (Or.inr (Or.inl ⟨hversion, Nat.lt_of_not_le hlen⟩))
  case isFalse hnot0 =>
    split
    case isTrue hversion =>
      rw [blocksV1_ofNat_eq_zero_iff]
      omega
    case isFalse hnot1 => exact iff_of_true rfl (Or.inl (by omega))

/-- Settles O37: the short block length is one case of the count, decided by the parameter alone. -/
theorem capCsdShortBlockLengthParameter : Obligations.CapCsdShortBlockLengthParameter := by
  intro s hversion hlen
  have hshort : ∀ cfg : Config, cfg.tables = config.tables → csdBlocks cfg s.w = shortBlockBlocks cfg s.w := by
    intro cfg htables
    apply csdBlocks_of_short
    · rw [sliceValue_toNat, htables]
      exact hversion
    · rw [sliceValue_toNat, htables]
      exact hlen
  constructor
  · rw [exec_capcsd, hshort config rfl]
    rfl
  · have hfree : csdBlocks { config with rblLt9 := .any } s.w = (Config.shortBlockCapacity s.w).toNat := hshort _ rfl
    have hword : BitVec.ofNat 32 (csdBlocks { config with rblLt9 := .any } s.w) = Config.shortBlockCapacity s.w := by
      rw [hfree, BitVec.ofNat_toNat, BitVec.setWidth_eq]
    exact congrArg (fun v : Word => Host.Outcome.next (s.answer (.blocks { width := 32, value := v }))) hword

/-- Settles O38: the count reads the version, and the fields of that version. -/
theorem capCsdReadsOnlyItsFields : Obligations.CapCsdReadsOnlyItsFields := by
  intro s t hversion hfields0 hfields1
  have hcount : csdBlocks config s.w = csdBlocks config t.w := by
    rw [csdBlocks_eq_bits, csdBlocks_eq_bits, ← hversion]
    split
    case isTrue h0 =>
      obtain ⟨hlen, hsize, hmult⟩ := hfields0 h0
      rw [hlen, hsize, hmult]
    case isFalse =>
      split
      case isTrue h1 => rw [hfields1 h1]
      case isFalse => rfl
  refine ⟨_, exec_capcsd s, ?_⟩
  rw [hcount]
  exact exec_capcsd t

/-! ## The ports of the CSD decoders -/

/-- The port of a CSD record is as wide as its row's slice, and holds the register's bits as its number. -/
theorem lookup_csdRecordOf_bits {t : List CsdRow} {p : CsdPort} {g : FieldSlice}
    (hrow : (t.find? fun r => decide (r.port = p)).map CsdRow.slice = some g) {n : Nat} (hwidth : g.width = n) (w : Words) :
    ∃ v : BitVec n, (csdRecordOf t (wordArray w)).lookup p = some { width := n, value := v }
      ∧ v.toNat = Spec.bitsNat w g.endBit g.startBit := by
  subst hwidth
  refine ⟨(sliceValue (wordArray w) g).setWidth g.width, by rw [lookup_csdRecordOf, hrow]; rfl, ?_⟩
  rw [← sliceValue_toNat]
  exact slicePort_value_toNat (wordArray w) g

/-- The ports that the version-0 count is about. -/
theorem csdSd10_capacity_ports (w : Words) :
    ∃ (version : BitVec 2) (cSize : BitVec 12) (mult : BitVec 3) (len : BitVec 4),
      (csdRecordOf layoutCsdSd10 (wordArray w)).lookup .csdStructure = some { width := 2, value := version }
      ∧ (csdRecordOf layoutCsdSd10 (wordArray w)).lookup .cSize = some { width := 12, value := cSize }
      ∧ (csdRecordOf layoutCsdSd10 (wordArray w)).lookup .cSizeMult = some { width := 3, value := mult }
      ∧ (csdRecordOf layoutCsdSd10 (wordArray w)).lookup .readBlLen = some { width := 4, value := len }
      ∧ version.toNat = Spec.bitsNat w 127 126 ∧ cSize.toNat = Spec.bitsNat w 73 62
      ∧ mult.toNat = Spec.bitsNat w 49 47 ∧ len.toNat = Spec.bitsNat w 83 80 := by
  obtain ⟨version, hversionPort, hversion⟩ := lookup_csdRecordOf_bits (t := layoutCsdSd10) (p := .csdStructure)
    (g := { endBit := 127, startBit := 126 }) (by decide) rfl w
  obtain ⟨cSize, hsizePort, hsize⟩ := lookup_csdRecordOf_bits (t := layoutCsdSd10) (p := .cSize)
    (g := { endBit := 73, startBit := 62 }) (by decide) rfl w
  obtain ⟨mult, hmultPort, hmult⟩ := lookup_csdRecordOf_bits (t := layoutCsdSd10) (p := .cSizeMult)
    (g := { endBit := 49, startBit := 47 }) (by decide) rfl w
  obtain ⟨len, hlenPort, hlen⟩ := lookup_csdRecordOf_bits (t := layoutCsdSd10) (p := .readBlLen)
    (g := { endBit := 83, startBit := 80 }) (by decide) rfl w
  exact ⟨version, cSize, mult, len, hversionPort, hsizePort, hmultPort, hlenPort, hversion, hsize, hmult, hlen⟩

/-- The port that the version-1 count is about. -/
theorem csdSd20_capacity_port (w : Words) :
    ∃ cSize : BitVec 22, (csdRecordOf layoutCsdSd20 (wordArray w)).lookup .cSize = some { width := 22, value := cSize }
      ∧ cSize.toNat = Spec.bitsNat w 69 48 :=
  lookup_csdRecordOf_bits (g := { endBit := 69, startBit := 48 }) (by decide) rfl w

/-- Settles O39: the ports hold the register's bits that the count reads. -/
theorem capCsdAgreesWithDecoders : Obligations.CapCsdAgreesWithDecoders := by
  intro s
  obtain ⟨version, cSize, mult, len, hversionPort, hsizePort, hmultPort, hlenPort, hversion, hsize, hmult, hlen⟩ :=
    csdSd10_capacity_ports s.w
  obtain ⟨cSize20, hsize20Port, hsize20⟩ := csdSd20_capacity_port s.w
  have hhigh := (blocksV0_bits_bounds s.w).2
  refine ⟨_, _, version, cSize, mult, len, cSize20, _, exec_eq_reply .csdsd10 s, exec_eq_reply .csdsd20 s, exec_capcsd s,
    hversionPort, hsizePort, hmultPort, hlenPort, hsize20Port, fun hv hl => ?long, fun hv hl => ?short,
    fun hv => ?version1⟩
  all_goals rw [csdBlocks_eq_bits]
  case long =>
    have h0 : Spec.bitsNat s.w 127 126 = 0 := by rw [← hversion, hv]; rfl
    rw [hlen] at hl ⊢
    rw [if_pos h0, if_pos hl, BitVec.toNat_ofNat, Nat.mod_eq_of_lt (by omega), hsize, hmult]
    rfl
  case short =>
    have h0 : Spec.bitsNat s.w 127 126 = 0 := by rw [← hversion, hv]; rfl
    rw [hlen] at hl
    rw [if_pos h0, if_neg (Nat.not_le.mpr hl)]
  case version1 =>
    have h1 : Spec.bitsNat s.w 127 126 = 1 := by rw [← hversion, hv]; rfl
    rw [if_neg (by omega), if_pos h1, BitVec.toNat_ofNat, hsize20]
    rfl

end Sys2Proof.Machine
end

section
/-! PROOFS. The assembler reads what the printer writes (30_encoding.md R76). -/

namespace Sys2Proof.Machine

/-! ## Runs of characters -/

/-- A character that the tokens of a line are made of: none that ends a run. -/
def RunChar (c : Char) : Prop := c ≠ ';' ∧ c ≠ ',' ∧ ¬ (c = ' ' ∨ c = '\t')

/-- Characters of a run are gathered, the last one first. -/
theorem tokens_append_run {cs : List Char} (h : ∀ c ∈ cs, RunChar c) (rest acc : List Char) :
    tokens (cs ++ rest) acc = tokens rest (cs.reverse ++ acc) := by
  induction cs generalizing acc with
  | nil => rfl
  | cons c cs ih =>
    obtain ⟨hsemicolon, hcomma, hblank⟩ := h c List.mem_cons_self
    rw [List.cons_append, tokens, if_neg hsemicolon, if_neg hcomma, if_neg hblank,
      ih (fun d hd => h d (List.mem_cons_of_mem c hd)), List.reverse_cons, List.append_assoc, List.singleton_append]

/-- A gathered run is one token. -/
theorem closeRun_reverse {cs : List Char} (hne : cs ≠ []) : closeRun cs.reverse = [.run cs] := by
  cases hrev : cs.reverse with
  | nil => exact absurd (List.reverse_eq_nil_iff.mp hrev) hne
  | cons c rest => rw [closeRun, ← hrev, List.reverse_reverse]

/-- A run up to a blank. -/
theorem tokens_run_blank {cs : List Char} (h : ∀ c ∈ cs, RunChar c) (hne : cs ≠ []) (rest : List Char) :
    tokens (cs ++ ' ' :: rest) [] = .run cs :: tokens rest [] := by
  rw [tokens_append_run h, List.append_nil, tokens, if_neg (by decide), if_neg (by decide), if_pos (by decide),
    closeRun_reverse hne, List.singleton_append]

/-- A run up to a comma, and the blank behind it. -/
theorem tokens_run_comma_blank {cs : List Char} (h : ∀ c ∈ cs, RunChar c) (hne : cs ≠ []) (rest : List Char) :
    tokens (cs ++ ',' :: ' ' :: rest) [] = .run cs :: .comma :: tokens rest [] := by
  rw [tokens_append_run h, List.append_nil, tokens, if_neg (by decide), if_pos rfl, closeRun_reverse hne,
    List.singleton_append]
  rfl

/-- A run up to the end of the line. -/
theorem tokens_run_end {cs : List Char} (h : ∀ c ∈ cs, RunChar c) (hne : cs ≠ []) : tokens cs [] = [.run cs] := by
  have hrun := tokens_append_run h [] []
  rw [List.append_nil, List.append_nil, tokens, closeRun_reverse hne] at hrun
  exact hrun

/-! ## Decimal operands -/

/-- A digit does not end a run. -/
theorem runChar_of_isDigit {c : Char} (h : c.isDigit = true) : RunChar c := by
  refine ⟨?_, ?_, ?_⟩
  · rintro rfl
    exact absurd h (by decide)
  · rintro rfl
    exact absurd h (by decide)
  · rintro (rfl | rfl)
    · exact absurd h (by decide)
    · exact absurd h (by decide)

/-- The assembler gives a digit its value. -/
theorem digitValue_of_isDigit {c : Char} (h : c.isDigit = true) : digitValue c = some (c.toNat - '0'.toNat) := by
  rw [Char.isDigit, Bool.and_eq_true, decide_eq_true_iff, decide_eq_true_iff] at h
  exact if_pos h

/-- The assembler reads digits as the library does. -/
theorem readDigits_eq_ofDigitChars {cs : List Char} (h : ∀ c ∈ cs, c.isDigit = true) (value : Nat) :
    readDigits value cs = some (Nat.ofDigitChars 10 cs value) := by
  induction cs generalizing value with
  | nil => rfl
  | cons c cs ih =>
    rw [readDigits, digitValue_of_isDigit (h c List.mem_cons_self), Nat.ofDigitChars_cons]
    exact ih (fun d hd => h d (List.mem_cons_of_mem c hd)) _

/-- The printed operand has digits only. -/
theorem isDigit_of_mem_decimal {n : Nat} {c : Char} (h : c ∈ Nat.toDigits 10 n) : c.isDigit = true :=
  Nat.isDigit_of_mem_toDigits (by decide) (by decide) h

/-- The printed operand is one run. -/
theorem runChar_of_mem_decimal {n : Nat} {c : Char} (h : c ∈ Nat.toDigits 10 n) : RunChar c :=
  runChar_of_isDigit (isDigit_of_mem_decimal h)

/-- The assembler reads back every number that is printed in decimal. -/
theorem readDecimal_toDigits (n : Nat) : readDecimal (Nat.toDigits 10 n) = some n := by
  have hread : readDigits 0 (Nat.toDigits 10 n) = some n := by
    rw [readDigits_eq_ofDigitChars fun c hc => isDigit_of_mem_decimal hc, Nat.ofDigitChars_ten_toDigits]
  cases hdigits : Nat.toDigits 10 n with
  | nil => exact absurd hdigits Nat.toDigits_ne_nil
  | cons c cs => rw [readDecimal, ← hdigits, hread]

/-! ## Lines -/

/-- The tokens of a mnemonic with two operands. -/
theorem tokens_two_operands {m a b : List Char} (hm : ∀ c ∈ m, RunChar c) (hmne : m ≠ []) (ha : ∀ c ∈ a, RunChar c)
    (hane : a ≠ []) (hb : ∀ c ∈ b, RunChar c) (hbne : b ≠ []) :
    tokens (m ++ ' ' :: a ++ ',' :: ' ' :: b) [] = [.run m, .run a, .comma, .run b] := by
  rw [List.append_assoc, List.cons_append, tokens_run_blank hm hmne, tokens_run_comma_blank ha hane,
    tokens_run_end hb hbne]

/-- The text of a `SLICE`. -/
theorem printInstr_slice (endBit startBit : Nat) :
    printInstr (.slice endBit startBit)
      = "SLICE".toList ++ ' ' :: Nat.toDigits 10 endBit ++ ',' :: ' ' :: Nat.toDigits 10 startBit := rfl

/-- The tokens of a printed `SLICE`. -/
theorem tokens_printInstr_slice (endBit startBit : Nat) :
    tokens (printInstr (.slice endBit startBit)) []
      = [.run "SLICE".toList, .run (Nat.toDigits 10 endBit), .comma, .run (Nat.toDigits 10 startBit)] :=
  (congrArg (tokens · []) (printInstr_slice endBit startBit)).trans <|
    tokens_two_operands (by simp [RunChar]) (by decide) (fun _ hc => runChar_of_mem_decimal hc)
      Nat.toDigits_ne_nil (fun _ hc => runChar_of_mem_decimal hc) Nat.toDigits_ne_nil

/-- How the assembler takes the tokens of a `SLICE` (30_encoding.md R76). -/
theorem parseTokens_slice (a b : List Char) :
    parseTokens [.run "SLICE".toList, .run a, .comma, .run b]
      = (readDecimal a).bind fun endBit => (readDecimal b).bind fun startBit => checkOperands (.slice endBit startBit) := by
  rw [parseTokens, if_pos rfl]

/-- The assembler reads back what the printer writes. -/
theorem parseLine_printInstr {i : Instr} (h : i.wellFormed = true) : parseLine (printInstr i) = some i := by
  cases i with
  | slice endBit startBit =>
    rw [parseLine, tokens_printInstr_slice, parseTokens_slice, readDecimal_toDigits, Option.bind_some,
      readDecimal_toDigits, Option.bind_some, checkOperands, if_pos h]
  | cidsd | cidmmc | csdmmc | csdsd10 | csdsd20 | capcsd | capext => decide

/-- Settles O51: the text of a decoded command is the text of the instruction that was encoded. -/
theorem assemblerReadsPrintedText : Obligations.AssemblerReadsPrintedText := by
  intro i h
  have hassemble : assembleLine (printInstr i) = some (encode i) := by
    rw [assembleLine, parseLine_printInstr h, Option.map_some]
  refine ⟨parseLine_printInstr h, hassemble, ?_⟩
  rw [disassemble, decodeCmd_encode h]
  exact hassemble

end Sys2Proof.Machine
end
